-- ==== Sys2Proof/Word.lean ====
section
/-! DEFINITION. The words of the machine (00_scope.md R5: XLEN is 32; 20_memory.md R50: the byte
is the addressable unit). -/

namespace Sys2Proof

/-- A register, an address, an instruction word: 32 bits (R5). -/
abbrev Word := BitVec 32

/-- A halfword (20_memory.md R58). -/
abbrev Half := BitVec 16

/-- A byte, the addressable unit (20_memory.md R50). -/
abbrev Byte := BitVec 8

/-- The number of a general register or of a CP0 register, as the five-bit fields `rs`, `rt`,
`rd` of an instruction hold it (30_encoding.md R82). -/
abbrev Reg := BitVec 5

end Sys2Proof
end

