-- ==== Sys2Proof/Machine/Flags.lean ====
section
/-! DEFINITION. Two's complement overflow. The machine has no flag register (10_state.md R15):
overflow is the one condition an instruction computes beside its result, and it raises an
exception (42_arithmetic.md R139). -/

namespace Sys2Proof.Machine

/-- An addition overflows: the operands have the same sign and the sum has the other one
(R139). -/
def addOverflows (a b : Word) : Bool :=
  a.msb == b.msb && (a + b).msb != a.msb

/-- A subtraction overflows: the operands have different signs and the difference does not have
the sign of the first (R139). -/
def subOverflows (a b : Word) : Bool :=
  a.msb != b.msb && (a - b).msb != a.msb

end Sys2Proof.Machine
end

