-- ==== Sys2Proof/Syntax.lean ====
section
/-! DEFINITION. The instructions: one constructor for each of the 47 rows of
spec/opcode_table.json, with the operand fields the row leaves free (30_encoding.md R85). The
operands stand in the assembler's order (30_encoding.md R93): destination first. -/

namespace Sys2Proof

/-- The instruction set of the spec (30_encoding.md R80). -/
inductive Instr where
  -- arithmetic, logic and shifts (42_arithmetic.md)
  | sll (rd rt shamt : Reg)
  | srl (rd rt shamt : Reg)
  | sllv (rd rt rs : Reg)
  | add (rd rs rt : Reg)
  | addu (rd rs rt : Reg)
  | sub (rd rs rt : Reg)
  | subu (rd rs rt : Reg)
  | and (rd rs rt : Reg)
  | or (rd rs rt : Reg)
  | addi (rt rs : Reg) (imm : Half)
  | addiu (rt rs : Reg) (imm : Half)
  | andi (rt rs : Reg) (imm : Half)
  | ori (rt rs : Reg) (imm : Half)
  | lui (rt : Reg) (imm : Half)
  -- multiply and divide (43_muldiv.md)
  | mfhi (rd : Reg)
  | mthi (rs : Reg)
  | mflo (rd : Reg)
  | mtlo (rs : Reg)
  | mult (rs rt : Reg)
  | multu (rs rt : Reg)
  | div (rs rt : Reg)
  | divu (rs rt : Reg)
  -- loads and stores (40_loads_stores.md)
  | lh (rt rs : Reg) (imm : Half)
  | lw (rt rs : Reg) (imm : Half)
  | lhu (rt rs : Reg) (imm : Half)
  | sh (rt rs : Reg) (imm : Half)
  | sw (rt rs : Reg) (imm : Half)
  -- control transfer (44_control_transfer.md)
  | jr (rs : Reg)
  | jalr (rd rs : Reg)
  | bgez (rs : Reg) (imm : Half)
  | j (target : BitVec 26)
  | jal (target : BitVec 26)
  | beq (rs rt : Reg) (imm : Half)
  | bne (rs rt : Reg) (imm : Half)
  | bc0f (imm : Half)
  | bc0t (imm : Half)
  | bc1f (imm : Half)
  | bc1t (imm : Half)
  | bc2f (imm : Half)
  | bc2t (imm : Half)
  | bc3f (imm : Half)
  | bc3t (imm : Half)
  -- system (41_system_cp0.md)
  | syscall (code : BitVec 20)
  | brk (code : BitVec 20)
  | mfc0 (rt rd : Reg)
  | mtc0 (rt rd : Reg)
  | rfe
  deriving DecidableEq, Repr

end Sys2Proof
end

