-- ==== Sys2Proof/WellFormed.lean ====
section
/-! DEFINITION. Well-formed instructions. Every operand field holds exactly the values its
encoding admits, so the one check left is the register constraint of `JALR`. -/

namespace Sys2Proof

/-- 44_control_transfer.md R178: `JALR` needs `rd` different from `rs`. Every other instruction
is well formed with every value of its fields (30_encoding.md R85). -/
def Instr.wellFormed : Instr → Bool
  | .jalr rd rs => rd != rs
  | .sll _ _ _ | .srl _ _ _ | .sllv _ _ _ | .add _ _ _ | .addu _ _ _ | .sub _ _ _
  | .subu _ _ _ | .and _ _ _ | .or _ _ _ | .addi _ _ _ | .addiu _ _ _ | .andi _ _ _
  | .ori _ _ _ | .lui _ _ | .mfhi _ | .mthi _ | .mflo _ | .mtlo _ | .mult _ _ | .multu _ _
  | .div _ _ | .divu _ _ | .lh _ _ _ | .lw _ _ _ | .lhu _ _ _ | .sh _ _ _ | .sw _ _ _
  | .jr _ | .bgez _ _ | .j _ | .jal _ | .beq _ _ _ | .bne _ _ _ | .bc0f _ | .bc0t _
  | .bc1f _ | .bc1t _ | .bc2f _ | .bc2t _ | .bc3f _ | .bc3t _ | .syscall _ | .brk _
  | .mfc0 _ _ | .mtc0 _ _ | .rfe => true

end Sys2Proof
end

