-- ==== Sys2Proof/Decode.lean ====
section
/-! DEFINITION. From bytes to instructions and back (30_encoding.md R81 to R91): the byte order
of a word, the fields, the decoder (total, rejecting by name) and the encoder. -/

namespace Sys2Proof

/-! ### Byte order (20_memory.md R54) -/

/-- The word whose bytes, from the lowest address up, are `b0 b1 b2 b3` (R54). -/
def joinWord (bigEndian : Bool) (b0 b1 b2 b3 : Byte) : Word :=
  if bigEndian then b0 ++ b1 ++ b2 ++ b3 else b3 ++ b2 ++ b1 ++ b0

/-- The halfword whose bytes, from the lowest address up, are `b0 b1` (R54). -/
def joinHalf (bigEndian : Bool) (b0 b1 : Byte) : Half :=
  if bigEndian then b0 ++ b1 else b1 ++ b0

/-- The bytes of a word from the lowest address up (R54). -/
def wordBytes (bigEndian : Bool) (w : Word) : List Byte :=
  let be := [w.extractLsb' 24 8, w.extractLsb' 16 8, w.extractLsb' 8 8, w.extractLsb' 0 8]
  if bigEndian then be else be.reverse

/-- The bytes of a halfword from the lowest address up (R54). -/
def halfBytes (bigEndian : Bool) (h : Half) : List Byte :=
  let be := [h.extractLsb' 8 8, h.extractLsb' 0 8]
  if bigEndian then be else be.reverse

/-! ### Fields (30_encoding.md R82) -/

/-- Major operation code, `w[31:26]`. -/
def opField (w : Word) : BitVec 6 := w.extractLsb' 26 6
/-- `w[25:21]`. -/
def rsField (w : Word) : Reg := w.extractLsb' 21 5
/-- `w[20:16]`. -/
def rtField (w : Word) : Reg := w.extractLsb' 16 5
/-- `w[15:11]`. -/
def rdField (w : Word) : Reg := w.extractLsb' 11 5
/-- `w[10:6]`. -/
def shamtField (w : Word) : Reg := w.extractLsb' 6 5
/-- Minor opcode of SPECIAL, `w[5:0]`. -/
def functField (w : Word) : BitVec 6 := w.extractLsb' 0 6
/-- `w[15:0]`. -/
def immField (w : Word) : Half := w.extractLsb' 0 16
/-- `w[25:0]`. -/
def targetField (w : Word) : BitVec 26 := w.extractLsb' 0 26
/-- `code` of SYSCALL and BREAK, `w[25:6]`. -/
def codeField (w : Word) : BitVec 20 := w.extractLsb' 6 20

/-! ### The decoder (30_encoding.md R85, R86) -/

/-- Why bytes are no instruction of the table. What the machine does with such a word is the
step's business (R88, R89, R129). -/
inductive DecodeError where
  /-- Fewer than four bytes (R81). -/
  | truncated
  /-- The major operation code is in no row of R85. -/
  | unknownMajor
  /-- SPECIAL with a minor opcode in no row of R85. -/
  | unknownMinor
  /-- Major operation code 1 with an `rt` other than BGEZ's (44_control_transfer.md R174). -/
  | unknownRegimm
  /-- A word of a coprocessor's major operation code in no row of R85 (41_system_cp0.md R129). -/
  | unknownCoprocessor
  /-- The row's instruction, but a field the row fixes at zero is not zero (R85, U43). -/
  | unusedField
  deriving DecidableEq, Repr

/-- An instruction whose unused fields must be zero (R85). -/
def whenUnusedZero (zero : Bool) (i : Instr) : Except DecodeError Instr :=
  if zero then .ok i else .error .unusedField

/-- Words with major operation code 0, SPECIAL (R85). -/
def decodeSpecial (w : Word) : Except DecodeError Instr :=
  let rs := rsField w
  let rt := rtField w
  let rd := rdField w
  let sh := shamtField w
  match (functField w).toNat with
  | 0x00 => whenUnusedZero (rs == 0#5) (.sll rd rt sh)
  | 0x02 => whenUnusedZero (rs == 0#5) (.srl rd rt sh)
  | 0x04 => whenUnusedZero (sh == 0#5) (.sllv rd rt rs)
  | 0x08 => whenUnusedZero (rt == 0#5 && rd == 0#5 && sh == 0#5) (.jr rs)
  | 0x09 => whenUnusedZero (rt == 0#5 && sh == 0#5) (.jalr rd rs)
  | 0x0C => .ok (.syscall (codeField w))
  | 0x0D => .ok (.brk (codeField w))
  | 0x10 => whenUnusedZero (rs == 0#5 && rt == 0#5 && sh == 0#5) (.mfhi rd)
  | 0x11 => whenUnusedZero (rt == 0#5 && rd == 0#5 && sh == 0#5) (.mthi rs)
  | 0x12 => whenUnusedZero (rs == 0#5 && rt == 0#5 && sh == 0#5) (.mflo rd)
  | 0x13 => whenUnusedZero (rt == 0#5 && rd == 0#5 && sh == 0#5) (.mtlo rs)
  | 0x18 => whenUnusedZero (rd == 0#5 && sh == 0#5) (.mult rs rt)
  | 0x19 => whenUnusedZero (rd == 0#5 && sh == 0#5) (.multu rs rt)
  | 0x1A => whenUnusedZero (rd == 0#5 && sh == 0#5) (.div rs rt)
  | 0x1B => whenUnusedZero (rd == 0#5 && sh == 0#5) (.divu rs rt)
  | 0x20 => whenUnusedZero (sh == 0#5) (.add rd rs rt)
  | 0x21 => whenUnusedZero (sh == 0#5) (.addu rd rs rt)
  | 0x22 => whenUnusedZero (sh == 0#5) (.sub rd rs rt)
  | 0x23 => whenUnusedZero (sh == 0#5) (.subu rd rs rt)
  | 0x24 => whenUnusedZero (sh == 0#5) (.and rd rs rt)
  | 0x25 => whenUnusedZero (sh == 0#5) (.or rd rs rt)
  | _ => .error .unknownMinor

/-- A coprocessor branch: `w[25:21]` = 8 and `w[20:16]` the condition (R83, CP-br). -/
def decodeCopBranch (w : Word) (ifFalse ifTrue : Half → Instr) : Except DecodeError Instr :=
  if rsField w = 8#5 ∧ rtField w = 0#5 then .ok (ifFalse (immField w))
  else if rsField w = 8#5 ∧ rtField w = 1#5 then .ok (ifTrue (immField w))
  else .error .unknownCoprocessor

/-- Words with major operation code 16, coprocessor 0 (R85). -/
def decodeCop0 (w : Word) : Except DecodeError Instr :=
  if w = 0x42000010#32 then .ok .rfe
  else if rsField w = 0#5 then
    whenUnusedZero (shamtField w == 0#5 && functField w == 0#6) (.mfc0 (rtField w) (rdField w))
  else if rsField w = 4#5 then
    whenUnusedZero (shamtField w == 0#5 && functField w == 0#6) (.mtc0 (rtField w) (rdField w))
  else decodeCopBranch w .bc0f .bc0t

/-- The instruction a word is (R85), or why it is none. -/
def decode (w : Word) : Except DecodeError Instr :=
  let rs := rsField w
  let rt := rtField w
  let imm := immField w
  match (opField w).toNat with
  | 0 => decodeSpecial w
  | 1 => if rt = 1#5 then .ok (.bgez rs imm) else .error .unknownRegimm
  | 2 => .ok (.j (targetField w))
  | 3 => .ok (.jal (targetField w))
  | 4 => .ok (.beq rs rt imm)
  | 5 => .ok (.bne rs rt imm)
  | 8 => .ok (.addi rt rs imm)
  | 9 => .ok (.addiu rt rs imm)
  | 12 => .ok (.andi rt rs imm)
  | 13 => .ok (.ori rt rs imm)
  | 15 => whenUnusedZero (rs == 0#5) (.lui rt imm)
  | 16 => decodeCop0 w
  | 17 => decodeCopBranch w .bc1f .bc1t
  | 18 => decodeCopBranch w .bc2f .bc2t
  | 19 => decodeCopBranch w .bc3f .bc3t
  | 33 => .ok (.lh rt rs imm)
  | 35 => .ok (.lw rt rs imm)
  | 37 => .ok (.lhu rt rs imm)
  | 41 => .ok (.sh rt rs imm)
  | 43 => .ok (.sw rt rs imm)
  | _ => .error .unknownMajor

/-- The instruction at the head of a list of bytes and the bytes after it. Every instruction
has four bytes (R81, R91), in the machine's byte order (20_memory.md R54). -/
def decodeBytes (bigEndian : Bool) : List Byte → Except DecodeError (Instr × List Byte)
  | b0 :: b1 :: b2 :: b3 :: rest =>
    (decode (joinWord bigEndian b0 b1 b2 b3)).map fun i => (i, rest)
  | _ => .error .truncated

/-- The instruction the decoder reads from a table row's word: its bytes laid out in memory
order (big-endian here; the round trip through bytes is the same in either order). -/
def decodeTableWord (nbits w : Nat) : Option Instr :=
  match decodeBytes true (wordBytes true (BitVec.ofNat 32 (w % 2 ^ nbits))) with
  | .ok (i, []) => some i
  | _ => none

/-! ### The encoder (30_encoding.md R83, R85) -/

/-- R-type: op, rs, rt, rd, shamt, funct (R83). -/
def encodeR (op : BitVec 6) (rs rt rd shamt : Reg) (funct : BitVec 6) : Word :=
  op ++ rs ++ rt ++ rd ++ shamt ++ funct

/-- I-type: op, rs, rt, imm (R83). The CP-br format has the same shape. -/
def encodeI (op : BitVec 6) (rs rt : Reg) (imm : Half) : Word :=
  op ++ rs ++ rt ++ imm

/-- J-type: op, target (R83). -/
def encodeJ (op : BitVec 6) (target : BitVec 26) : Word :=
  op ++ target

/-- BRK-type: op 0, code, funct (R83). -/
def encodeBrk (code : BitVec 20) (funct : BitVec 6) : Word :=
  0#6 ++ code ++ funct

/-- The word of an instruction (R85). -/
def encode : Instr → Word
  | .sll rd rt shamt => encodeR 0#6 0#5 rt rd shamt 0x00#6
  | .srl rd rt shamt => encodeR 0#6 0#5 rt rd shamt 0x02#6
  | .sllv rd rt rs => encodeR 0#6 rs rt rd 0#5 0x04#6
  | .jr rs => encodeR 0#6 rs 0#5 0#5 0#5 0x08#6
  | .jalr rd rs => encodeR 0#6 rs 0#5 rd 0#5 0x09#6
  | .syscall code => encodeBrk code 0x0C#6
  | .brk code => encodeBrk code 0x0D#6
  | .mfhi rd => encodeR 0#6 0#5 0#5 rd 0#5 0x10#6
  | .mthi rs => encodeR 0#6 rs 0#5 0#5 0#5 0x11#6
  | .mflo rd => encodeR 0#6 0#5 0#5 rd 0#5 0x12#6
  | .mtlo rs => encodeR 0#6 rs 0#5 0#5 0#5 0x13#6
  | .mult rs rt => encodeR 0#6 rs rt 0#5 0#5 0x18#6
  | .multu rs rt => encodeR 0#6 rs rt 0#5 0#5 0x19#6
  | .div rs rt => encodeR 0#6 rs rt 0#5 0#5 0x1A#6
  | .divu rs rt => encodeR 0#6 rs rt 0#5 0#5 0x1B#6
  | .add rd rs rt => encodeR 0#6 rs rt rd 0#5 0x20#6
  | .addu rd rs rt => encodeR 0#6 rs rt rd 0#5 0x21#6
  | .sub rd rs rt => encodeR 0#6 rs rt rd 0#5 0x22#6
  | .subu rd rs rt => encodeR 0#6 rs rt rd 0#5 0x23#6
  | .and rd rs rt => encodeR 0#6 rs rt rd 0#5 0x24#6
  | .or rd rs rt => encodeR 0#6 rs rt rd 0#5 0x25#6
  | .bgez rs imm => encodeI 1#6 rs 1#5 imm
  | .j target => encodeJ 2#6 target
  | .jal target => encodeJ 3#6 target
  | .beq rs rt imm => encodeI 4#6 rs rt imm
  | .bne rs rt imm => encodeI 5#6 rs rt imm
  | .addi rt rs imm => encodeI 8#6 rs rt imm
  | .addiu rt rs imm => encodeI 9#6 rs rt imm
  | .andi rt rs imm => encodeI 12#6 rs rt imm
  | .ori rt rs imm => encodeI 13#6 rs rt imm
  | .lui rt imm => encodeI 15#6 0#5 rt imm
  | .mfc0 rt rd => encodeR 16#6 0#5 rt rd 0#5 0#6
  | .mtc0 rt rd => encodeR 16#6 4#5 rt rd 0#5 0#6
  | .rfe => 0x42000010#32
  | .bc0f imm => encodeI 16#6 8#5 0#5 imm
  | .bc0t imm => encodeI 16#6 8#5 1#5 imm
  | .bc1f imm => encodeI 17#6 8#5 0#5 imm
  | .bc1t imm => encodeI 17#6 8#5 1#5 imm
  | .bc2f imm => encodeI 18#6 8#5 0#5 imm
  | .bc2t imm => encodeI 18#6 8#5 1#5 imm
  | .bc3f imm => encodeI 19#6 8#5 0#5 imm
  | .bc3t imm => encodeI 19#6 8#5 1#5 imm
  | .lh rt rs imm => encodeI 33#6 rs rt imm
  | .lw rt rs imm => encodeI 35#6 rs rt imm
  | .lhu rt rs imm => encodeI 37#6 rs rt imm
  | .sh rt rs imm => encodeI 41#6 rs rt imm
  | .sw rt rs imm => encodeI 43#6 rs rt imm

end Sys2Proof
end

