-- ==== Sys2Proof/Config.lean ====
section
/-! DEFINITION. What an implementation fixes (00_scope.md R5), as plain data that `State.cfg`
holds, and the free values: constants with no body that stand for what the spec leaves
undefined (`undef_N` of 00_scope.md R8). -/

namespace Sys2Proof

/-- Which of the two parts the machine is (00_scope.md R1, parameter `PART`). -/
inductive Part where
  | lr33300
  | lr33310
  deriving DecidableEq, Repr

/-- The kind of a memory access (20_memory.md R61). -/
inductive AccessKind where
  | fetch
  | load
  | store
  deriving DecidableEq, Repr

/-- A range of byte addresses with the widths in bytes and the kinds of access it covers. Any
predicate on an address, a width and a kind is a list of such ranges (20_memory.md R61). -/
structure Region where
  base : Nat
  size : Nat
  widths : List Nat
  fetch : Bool
  load : Bool
  store : Bool
  deriving DecidableEq, Repr

/-- The words that agree with `value` in the bits set in `mask`. Any set of words is a list of such
patterns (30_encoding.md R88). -/
structure WordPattern where
  mask : Word
  value : Word
  deriving DecidableEq, Repr

/-- The map `excCode` (60_exceptions.md R205): the four-bit code of every exception kind that
posts one. `int` is a field like the others; `Config.wf` says it is 0. -/
structure ExcCodes where
  int : BitVec 4
  adEL : BitVec 4
  adES : BitVec 4
  ibe : BitVec 4
  dbe : BitVec 4
  sys : BitVec 4
  bp : BitVec 4
  ri : BitVec 4
  cpU : BitVec 4
  ovf : BitVec 4
  deriving DecidableEq, Repr

/-- The implementation parameters of 00_scope.md R5. The fixed ones (XLEN, ILEN, RESET_VECTOR)
are constants elsewhere. Log entry 2. -/
structure Config where
  /-- `PART`, OPEN. -/
  part : Part
  /-- `REV`, default 0x0A (10_state.md R36, D27). -/
  rev : BitVec 8
  /-- `BIG_ENDIAN`, OPEN (20_memory.md R54). -/
  bigEndian : Bool
  /-- `excCode` (60_exceptions.md R205). -/
  excCodes : ExcCodes
  /-- `EPC_WRITABLE`, OPEN (10_state.md R35). -/
  epcWritable : Bool
  /-- `ReservedOpcode`: the 32-bit words outside the opcode table that raise RI, as patterns
  (30_encoding.md R88). -/
  reservedWords : List WordPattern
  /-- `LDSCH`: no rule lets it change architectural state (40_loads_stores.md R103). -/
  ldsch : Bool
  /-- `CP0_WRITE_LATENCY`, OPEN, at most 2: for how many instructions after a CP0 write a program must
  not depend on the changed bits (70_reset_and_hazards.md R273, log entry 10). -/
  cp0WriteLatency : Nat
  /-- `TRACE_ON_VECTOR`, OPEN (60_exceptions.md R235). -/
  traceOnVector : Bool
  /-- `Admit`: the accesses the platform answers (20_memory.md R61). -/
  memoryMap : List Region
  /-- The accesses outside `memoryMap` that the platform promises to end with BERR
  (20_memory.md R61, D23). -/
  berrMap : List Region
  deriving DecidableEq, Repr

/-- What a free value is used for; with the step's number it is the key of the value, so two
uses in one step are two independent values. -/
inductive FreeUse where
  /-- The operand `rs` read in a load delay slot (70_reset_and_hazards.md R270). -/
  | readRs
  /-- The operand `rt` read in a load delay slot (R270). -/
  | readRt
  /-- A register written in the delay slot of a load of the same register (R270). -/
  | writeGpr
  /-- HI: a division corner (43_muldiv.md R162, R163), an exception entry (R168), a reset (R43). -/
  | hi
  /-- LO: as HI. -/
  | lo
  /-- Cause.BT after an entry outside a delay slot (60_exceptions.md R203). -/
  | causeBT
  /-- Cause.CE after an entry other than CpU (R203). -/
  | causeCE
  /-- TAR after an entry that is not in the slot of a taken branch (R203), or a reset (R43). -/
  | tar
  /-- Byte `i` of a store whose bus transaction ended in BERR (60_exceptions.md R217). -/
  | storeByte (i : Nat)
  /-- General register `i` after a reset event (10_state.md R43). -/
  | gpr (i : Nat)
  /-- EPC after a cold reset event (R43). -/
  | epc
  /-- BadA after a reset event (R43). -/
  | badA
  /-- BPC after a cold reset event (R43). -/
  | bpc
  /-- BDA after a cold reset event (R43). -/
  | bda
  deriving DecidableEq, Repr

/-- `undef_w` of 00_scope.md R8: the value that use `u` draws in step number `k`. No body:
nothing is known of it. Log entry 6. -/
opaque Config.undef (w : Nat) (u : FreeUse) (k : Nat) : BitVec w

/-- The byte that memory holds at an address nothing has been written to (10_state.md R43:
memory at reset is "not stated; owned by the platform"). No body. Log entry 7. -/
opaque Config.initialByte (a : Nat) : Byte

end Sys2Proof
end

