-- ==== Sys2Proof/Machine/Parts.lean ====
section
/-! DEFINITION. The types State is made of: plain data each (10_state.md, 00_scope.md R7). -/

namespace Sys2Proof.Machine

/-- Memory: the bytes something has put there, by address, in rising order of addresses. A byte
that is not listed has no recorded value (`Memory.wf`, `Memory.read`; log entry 7). -/
abbrev Memory := List Host.Cell

/-- The delay-slot record (10_state.md R12): `slot taken target` means that the instruction at
`pc` stands in the delay slot of the branch at `pc - 4`. -/
inductive Delay where
  | none
  | slot (taken : Bool) (target : Word)
  deriving DecidableEq, Repr

/-- How the instruction at `pc` is reached (60_exceptions.md R235). -/
inductive Arrival where
  /-- From the instruction before it, or after reset. -/
  | sequential
  /-- As the target of a taken branch or jump. -/
  | target
  /-- As the first instruction of a handler, by an exception entry. -/
  | vector
  deriving DecidableEq, Repr

/-- The Cause register (10_state.md R30). IP is not stored: it shows the pins (R32). -/
structure Cause where
  bd : Bool
  bt : Bool
  ce : BitVec 2
  sw : BitVec 2
  excCode : BitVec 4
  deriving DecidableEq, Repr

/-- The eleven CP0 registers (10_state.md R20). -/
inductive Cp0Reg where
  | bpc
  | bda
  | tar
  | dcic
  | badA
  | bdam
  | bpcm
  | sr
  | cause
  | epc
  | prid
  deriving DecidableEq, Repr

/-- A CP0 write that must not be depended on yet: the register, the bits the write changed, whether it
was the pop of an RFE, and for how many more instructions (70_reset_and_hazards.md R273). -/
structure Cp0Change where
  reg : Cp0Reg
  changed : Word
  pop : Bool
  left : Nat
  deriving DecidableEq, Repr

/-- An exception of 60_exceptions.md R200 that takes the general entry, with what its entry
records (R203). The Debug exception posts `bp` (R238); Reset takes no entry (R212). -/
inductive Exc where
  | int
  /-- Address Error of a fetch or a load, with the bad address (R213). -/
  | adEL (bad : Word)
  /-- Address Error of a store, with the bad address (R213). -/
  | adES (bad : Word)
  | ibe
  | dbe
  | sys
  | bp
  | ri
  /-- Coprocessor Unusable, with the coprocessor's number (R218). -/
  | cpU (z : BitVec 2)
  | ovf
  deriving DecidableEq, Repr

/-- The two widths of a data access (20_memory.md R58). -/
inductive Width where
  | half
  | word
  deriving DecidableEq, Repr

/-- Cold or warm reset (70_reset_and_hazards.md R261). -/
inductive ResetKind where
  | cold
  | warm
  deriving DecidableEq, Repr

/-- A reset event (R260): its kind, the memory the environment gives after it, and whether the
stores still in the write buffer complete, so that a bus error of theirs can still arrive
(the source does not say which; log entry 20). -/
structure ResetEvent where
  kind : ResetKind
  memory : List (Word × Byte)
  storesComplete : Bool
  deriving DecidableEq, Repr

/-- What comes from outside the CPU during one step (00_scope.md R7), and the choices that the
spec leaves to the moment (log entries 4, 5, 19). -/
structure Env where
  /-- A reset event at the boundary before this step (70_reset_and_hazards.md R260). -/
  reset : Option ResetEvent
  /-- A parity error is detected (10_state.md R25). -/
  parityError : Bool
  /-- The levels of INT[5:0] (60_exceptions.md R225). -/
  int : BitVec 6
  /-- INTMASK is asserted (R227). -/
  intMask : Bool
  /-- The conditions CPC[3:0], 1 for true (44_control_transfer.md R179). -/
  cpc : BitVec 4
  /-- The instruction fetch is answered with BERR (R216). -/
  berrFetch : Bool
  /-- The data access is answered with BERR (R216, R217). -/
  berrData : Bool
  /-- If an interrupt is pending at this boundary, it is taken; else it is deferred (R228,
  `Env.hold`). -/
  takeInterrupt : Bool
  /-- If a store's bus error is outstanding, it arrives at this boundary; else later (R217,
  `Env.hold`). -/
  deliverStoreError : Bool
  deriving DecidableEq, Repr

end Sys2Proof.Machine
end

