-- ==== Sys2Proof/Machine/Defaults.lean ====
section
/-! DEFINITION. The values `State.reset` is made of: the parameters' defaults (00_scope.md R5)
and the values the spec states for reset (10_state.md R43). -/

namespace Sys2Proof.Machine

/-- The R3000 numbers (60_exceptions.md R205, the default of `excCode`). -/
def defaultExcCodes : ExcCodes where
  int := 0#4
  adEL := 4#4
  adES := 5#4
  ibe := 6#4
  dbe := 7#4
  sys := 8#4
  bp := 9#4
  ri := 10#4
  cpU := 11#4
  ovf := 12#4

/-- The whole address space, for every width and kind of access (20_memory.md R58, R61). -/
def Region.everything : Region where
  base := 0
  size := 2 ^ 32
  widths := [2, 4]
  fetch := true
  load := true
  store := true

/-- The words with major operation code `op` (30_encoding.md R82). -/
def majorPattern (op : BitVec 6) : WordPattern where
  mask := 0xFC000000#32
  value := op ++ 0#26

/-- The words of SPECIAL with minor opcode `funct` (30_encoding.md R82). -/
def minorPattern (funct : BitVec 6) : WordPattern where
  mask := 0xFC00003F#32
  value := 0#26 ++ funct

/-- The holes of the MIPS I map (30_encoding.md R88, the default of `ReservedOpcode`). -/
def defaultReservedWords : List WordPattern :=
  [20, 21, 22, 23, 24, 25, 26, 27, 28, 29, 30, 31, 39, 44, 45, 47, 52, 53, 54, 55, 60, 61, 62,
    63].map majorPattern ++
  [1, 5, 10, 11, 14, 15, 20, 21, 22, 23, 28, 29, 30, 31, 40, 41, 44, 45, 46, 47, 48, 49, 50, 51,
    52, 53, 54, 55, 56, 57, 58, 59, 60, 61, 62, 63].map minorPattern

/-- The parameters at `State.reset`: the spec's defaults where it gives them (00_scope.md R5,
60_exceptions.md R205, 30_encoding.md R88); log entry 2 for the OPEN ones. -/
def defaultConfig : Config where
  part := .lr33300
  rev := 0x0A#8
  bigEndian := true
  excCodes := defaultExcCodes
  epcWritable := false
  reservedWords := defaultReservedWords
  ldsch := false
  cp0WriteLatency := 2
  traceOnVector := false
  memoryMap := [Region.everything]
  berrMap := [Region.everything]

/-- No event, every input deasserted; an interrupt or a late bus error, once pending, is taken
at the first boundary (log entries 4, 5). -/
def Env.quiet : Env where
  reset := none
  parityError := false
  int := 0#6
  intMask := false
  cpc := 0#4
  berrFetch := false
  berrData := false
  takeInterrupt := true
  deliverStoreError := true

/-- The reset vector (70_reset_and_hazards.md R260). -/
def resetVector : Word := 0xBFC00000#32

/-- SR after reset: only BEV (10_state.md R43). -/
def resetSr : Word := 0x00400000#32

/-- BPCM and BDAM after reset (10_state.md R43). -/
def resetMask : Word := 0xFFFFFFFF#32

/-- Cause after reset: all bits zero (10_state.md R43). -/
def resetCause : Cause where
  bd := false
  bt := false
  ce := 0#2
  sw := 0#2
  excCode := 0#4

/-- The value `State.reset` gives a register the spec leaves undefined at reset (10_state.md
R43). DESIGN CHOICE, unsafe, log entry 3. -/
def resetUndefined : Word := 0#32

end Sys2Proof.Machine
end

