-- ==== Sys2Proof/Machine/State.lean ====
section
/-! DEFINITION. The state of the machine, all of it, as plain data (10_state.md), why a step can
stop, and the state after reset. -/

namespace Sys2Proof.Machine

/-- Everything the spec gives the machine (10_state.md), the inputs of the steps to come
(00_scope.md R7), the history its rules refer to, and the implementation's parameters. -/
structure State where
  /-- x[0] to x[31] (10_state.md R10); entry 0 is never read. -/
  regs : Vector Word 32
  /-- HI and LO, the multiply/divide register (R11). -/
  hi : Word
  lo : Word
  /-- The address of the instruction to execute (R12). -/
  pc : Word
  /-- The delay-slot record (R12). -/
  delay : Delay
  /-- Status Register, CP0 12 (R21). -/
  sr : Word
  /-- Cause Register, CP0 13 (R30). -/
  cause : Cause
  /-- Exception Program Counter, CP0 14 (R35). -/
  epc : Word
  /-- Target Address Register, CP0 6 (R34). -/
  tar : Word
  /-- Bad Address Register, CP0 8 (R33). -/
  badA : Word
  /-- Breakpoint Program Counter, CP0 3 (R40). -/
  bpc : Word
  /-- Breakpoint Program Counter Mask, CP0 11 (R40). -/
  bpcm : Word
  /-- Breakpoint Data Address, CP0 5 (R41). -/
  bda : Word
  /-- Breakpoint Data Address Mask, CP0 9 (R41). -/
  bdam : Word
  /-- Debug and Cache Invalidate Control, CP0 7 (R37, R38). -/
  dcic : Word
  /-- Memory (20_memory.md R50). -/
  mem : Memory
  /-- How the instruction at `pc` is reached (60_exceptions.md R235). -/
  arrival : Arrival
  /-- The register that the instruction just before loaded, if it was a load or an MFC0
  (70_reset_and_hazards.md R270). -/
  loadDelay : Option Reg
  /-- For how many more instructions a writer of HI or LO is refused (43_muldiv.md R168). -/
  hiloGuard : Nat
  /-- The addresses of the instructions that stand within two after an MFHI or MFLO executed in this
  run, rising: a writer of HI or LO at one of them is refused (R168). -/
  hiloFollowers : List Nat
  /-- The CP0 writes of the last instructions whose bits a program must not depend on yet, the newest
  first (70_reset_and_hazards.md R273). -/
  cp0Window : List Cp0Change
  /-- The byte addresses stored to in this run, rising (20_memory.md R66). -/
  stored : List Nat
  /-- Stores whose bus error is still to come (60_exceptions.md R217). -/
  pendingStoreErrors : Nat
  /-- The pc came here past 0xFFFFFFFC (10_state.md R13). -/
  wrapped : Bool
  /-- The number of the step, the key of its free values. The model's own field (log entry 6). -/
  steps : Nat
  /-- The environment's part in the coming step (00_scope.md R7, log entry 4). -/
  env : Env
  /-- The environment's part in the steps after it (log entry 4). -/
  schedule : List Env
  /-- The implementation's parameters (00_scope.md R5); no step changes them. -/
  cfg : Config
  deriving DecidableEq, Repr

/-- Why the machine stops with a fault. -/
inductive Fault where
  /-- Raised by a fetch, a load or a store that the platform does not admit and promises no BERR
  for: the machine makes no further step (20_memory.md R61, U30). Safe: nothing is claimed of
  what the hardware does there. -/
  | stuckAccess
  deriving DecidableEq, Repr

/-- Why a step has no meaning: the spec's `refuse` (00_scope.md R8). All of them are safe:
nothing is claimed of what the hardware does. -/
inductive Refusal where
  /-- Raised by an arm of `exec` whose instruction has no meaning yet; no arm does. -/
  | notModelled (mnemonic : String)
  /-- Raised by a branch or jump in a delay slot (10_state.md R13, D5). -/
  | branchInDelaySlot
  /-- Raised by `JALR` with `rd` = `rs` (44_control_transfer.md R178, D5). -/
  | jalrSameRegister
  /-- Raised by a writer of HI or LO within two instructions after `MFHI` or `MFLO`, as executed or
  as the program has them (43_muldiv.md R168, D34). -/
  | hiloReorganization
  /-- Raised by an instruction, or its fetch, whose behaviour depends on bits that an MTC0 or RFE
  changed at most `CP0_WRITE_LATENCY` instructions before (70_reset_and_hazards.md R272, R273,
  U25). -/
  | cp0WriteWindow
  /-- Raised by a load or store while SR.IsC = 1 (10_state.md R26, D29). -/
  | cacheIsolated
  /-- Raised by the fetch of a byte that the CPU has stored to (20_memory.md R66, D21). -/
  | fetchOfStoredByte
  /-- Raised by a fetch that follows the instruction at 0xFFFFFFFC (10_state.md R13, U31). -/
  | fetchPastTop
  /-- Raised by a word of a usable coprocessor that is no instruction of the table
  (41_system_cp0.md R129, D26). -/
  | coprocessorWord
  /-- Raised by a word that is no instruction of the table and not reserved
  (30_encoding.md R89, D1). -/
  | wordOutsideTable
  deriving DecidableEq, Repr

/-- The state right after (cold) reset: the values of 10_state.md R43. The registers the spec
leaves undefined hold `resetUndefined` (log entry 3), nothing is listed in memory (log entry 7),
the parameters and the environment are at their defaults (log entries 2, 4). -/
def State.reset : State where
  regs := Vector.replicate 32 resetUndefined
  hi := resetUndefined
  lo := resetUndefined
  pc := resetVector
  delay := .none
  sr := resetSr
  cause := resetCause
  epc := resetUndefined
  tar := resetUndefined
  badA := resetUndefined
  bpc := resetUndefined
  bpcm := resetMask
  bda := resetUndefined
  bdam := resetMask
  dcic := 0#32
  mem := []
  arrival := .sequential
  loadDelay := none
  hiloGuard := 0
  hiloFollowers := []
  cp0Window := []
  stored := []
  pendingStoreErrors := 0
  wrapped := false
  steps := 0
  env := Env.quiet
  schedule := []
  cfg := defaultConfig

end Sys2Proof.Machine
end

