-- ==== Sys2Proof/Machine/Memory.lean ====
section
/-! DEFINITION. Memory: one byte-addressed space (20_memory.md R50), its canonical form, and the
reads and writes of R55 and R56. -/

namespace Sys2Proof.Machine

/-- The canonical form: addresses strictly rising and inside the 32-bit space (R50). An address
that is not listed has no recorded value, so no entry can equal it; memories with the same
recorded bytes are equal lists. -/
abbrev Memory.wf (m : Memory) : Prop :=
  m.Pairwise (fun c d => c.1 < d.1) ∧ ∀ c ∈ m, c.1 < 2 ^ 32

/-- The byte recorded at an address, if one is. -/
def Memory.recorded : Memory → Nat → Option Byte
  | [], _ => none
  | c :: m, a => if c.1 = a then some c.2 else Memory.recorded m a

/-- What memory holds at an address: the recorded byte, or the free value of a byte that nothing
has written (10_state.md R43; log entry 7). -/
def Memory.read (m : Memory) (a : Nat) : Byte :=
  (m.recorded a).getD (Config.initialByte a)

/-- Record a byte at an address, keeping the canonical form. -/
def Memory.write : Memory → Nat → Byte → Memory
  | [], a, b => [(a, b)]
  | c :: m, a, b =>
    if a < c.1 then (a, b) :: c :: m
    else if a = c.1 then (a, b) :: m
    else c :: Memory.write m a b

/-- Record bytes at consecutive addresses. -/
def Memory.writeBytes : Memory → Nat → List Byte → Memory
  | m, _, [] => m
  | m, a, b :: bs => Memory.writeBytes (m.write a b) (a + 1) bs

/-- The memory that a list of bytes at 32-bit addresses describes; a later entry for an address
wins. -/
def Memory.ofCells (cells : List (Word × Byte)) : Memory :=
  cells.foldl (fun m c => m.write c.1.toNat c.2) []

/-- `MemRead(addr, 2)` (R55). -/
def Memory.readHalf (m : Memory) (bigEndian : Bool) (a : Nat) : Half :=
  joinHalf bigEndian (m.read a) (m.read (a + 1))

/-- `MemRead(addr, 4)` (R55). -/
def Memory.readWord (m : Memory) (bigEndian : Bool) (a : Nat) : Word :=
  joinWord bigEndian (m.read a) (m.read (a + 1)) (m.read (a + 2)) (m.read (a + 3))

/-- A set of addresses in canonical form: strictly rising and inside the 32-bit space. -/
abbrev addressesWf (l : List Nat) : Prop :=
  l.Pairwise (· < ·) ∧ ∀ a ∈ l, a < 2 ^ 32

/-- Add an address to a set of addresses, keeping the canonical form. -/
def insertAddress : List Nat → Nat → List Nat
  | [], a => [a]
  | x :: l, a => if a < x then a :: x :: l else if a = x then x :: l else x :: insertAddress l a

/-- Add `n` consecutive addresses to a set of addresses. -/
def insertAddresses : List Nat → Nat → Nat → List Nat
  | l, _, 0 => l
  | l, a, n + 1 => insertAddresses (insertAddress l a) (a + 1) n

/-- The width of an access in bytes (R58). -/
def Width.bytes : Width → Nat
  | .half => 2
  | .word => 4

/-- Whether a region covers an access of `n` bytes at `a` (R61). -/
def Region.covers (r : Region) (a n : Nat) (k : AccessKind) : Bool :=
  decide (r.base ≤ a ∧ a + n ≤ r.base + r.size) && r.widths.contains n &&
    match k with
    | .fetch => r.fetch
    | .load => r.load
    | .store => r.store

/-- `Admit(addr, n, kind)`: the platform answers the access (R61). -/
def platformAnswers (c : Config) (a n : Nat) (k : AccessKind) : Bool :=
  c.memoryMap.any fun r => Region.covers r a n k

/-- The platform promises to end the access with BERR if it does not answer it (R61, D23). -/
def berrPromised (c : Config) (a n : Nat) (k : AccessKind) : Bool :=
  c.berrMap.any fun r => Region.covers r a n k

end Sys2Proof.Machine
end

