-- ==== Sys2Proof/Machine/Cp0.lean ====
section
/-! DEFINITION. The registers of coprocessor 0: their fields (10_state.md R21 to R41), what reading
and writing them does (41_system_cp0.md R123 to R127), and the conditions computed from them:
coprocessor usability (R120), the interrupt condition (60_exceptions.md R226) and the detection
of debug conditions (R232 to R235). -/

namespace Sys2Proof.Machine

/-! ### Fields of SR (10_state.md R21) -/

/-- Current kernel/user bit: set in user mode (R28). -/
def State.kuc (s : State) : Bool := s.sr.getLsbD 1

/-- Current interrupt enable bit (R28). -/
def State.iec (s : State) : Bool := s.sr.getLsbD 0

/-- Isolate Cache (R26). -/
def State.isc (s : State) : Bool := s.sr.getLsbD 16

/-- Bootstrap exception vectors (R24). -/
def State.bev (s : State) : Bool := s.sr.getLsbD 22

/-- Coprocessor `z` is marked usable (R22). -/
def State.cu (s : State) (z : BitVec 2) : Bool := s.sr.getLsbD (28 + z.toNat)

/-- The eight mask bits, Intr[5:0] above Sw[1:0] (R27). -/
def State.intMaskBits (s : State) : BitVec 8 := s.sr.extractLsb' 8 8

/-- The bits of SR that can be written, PE among them as write-one-to-clear (R29). -/
def srWriteMask : Word := 0xF045FF3F#32

/-- PE, bit 20 of SR (R25). -/
def srPe : Word := 0x00100000#32

/-- The bits of SR that exist; the others and TS read as zero (R23, R25). -/
def srDefined : Word := 0xF055FF3F#32

/-- The bits of DCIC that exist (R39). -/
def dcicDefined : Word := 0xFF80003F#32

/-- Writing `v` to SR that holds `old` (R29). -/
def writeSr (old v : Word) : Word :=
  ((old &&& ~~~srWriteMask) ||| (v &&& srWriteMask)) &&& ~~~(v &&& srPe)

/-- The Status stack push of an exception entry: `SR[5:0] <- SR[3:0] ++ 00`
(60_exceptions.md R204). -/
def pushStatus (sr : Word) : Word :=
  sr.extractLsb' 6 26 ++ sr.extractLsb' 0 4 ++ 0#2

/-- The Status stack pop of RFE: `SR[3:0] <- SR[5:2]` (41_system_cp0.md R128). -/
def popStatus (sr : Word) : Word :=
  sr.extractLsb' 4 28 ++ sr.extractLsb' 2 4

/-! ### CP0 register numbers (10_state.md R20) -/

/-- What a CP0 register number names (R20). -/
inductive Cp0Number where
  /-- A TLB register of the R3000, not implemented: any access raises RI. -/
  | absent
  /-- Unused: any access is a NOP. -/
  | unused
  | reg (r : Cp0Reg)
  deriving DecidableEq, Repr

/-- The register a number names (R20; 41_system_cp0.md R123). -/
def cp0Number (n : Reg) : Cp0Number :=
  match n.toNat with
  | 3 => .reg .bpc
  | 5 => .reg .bda
  | 6 => .reg .tar
  | 7 => .reg .dcic
  | 8 => .reg .badA
  | 9 => .reg .bdam
  | 11 => .reg .bpcm
  | 12 => .reg .sr
  | 13 => .reg .cause
  | 14 => .reg .epc
  | 15 => .reg .prid
  | 0 | 1 | 2 | 4 | 10 => .absent
  | _ => .unused

/-- PRId's Implementation field (10_state.md R36). -/
def partImp (p : Part) : BitVec 8 :=
  match p with
  | .lr33300 => 0x0A#8
  | .lr33310 => 0x0B#8

/-- Cause as software reads it, IP showing the pins (41_system_cp0.md R125, 10_state.md R32). -/
def State.causeWord (s : State) : Word :=
  BitVec.ofBool s.cause.bd ++ BitVec.ofBool s.cause.bt ++ s.cause.ce ++ 0#12 ++ s.env.int ++
    s.cause.sw ++ 0#2 ++ s.cause.excCode ++ 0#2

/-- The value a read of a CP0 register returns (41_system_cp0.md R125). -/
def State.readCp0 (s : State) (r : Cp0Reg) : Word :=
  match r with
  | .bpc => s.bpc
  | .bda => s.bda
  | .tar => s.tar
  | .dcic => s.dcic &&& dcicDefined
  | .badA => s.badA
  | .bdam => s.bdam
  | .bpcm => s.bpcm
  | .sr => s.sr &&& srDefined
  | .cause => s.causeWord
  | .epc => s.epc
  | .prid => 0#16 ++ partImp s.cfg.part ++ s.cfg.rev

/-- The effect of writing `v` to a CP0 register (41_system_cp0.md R127). -/
def State.writeCp0 (s : State) (r : Cp0Reg) (v : Word) : State :=
  match r with
  | .bpc => { s with bpc := v }
  | .bda => { s with bda := v }
  | .tar => s
  | .dcic => { s with dcic := v &&& dcicDefined }
  | .badA => s
  | .bdam => { s with bdam := v }
  | .bpcm => { s with bpcm := v }
  | .sr => { s with sr := writeSr s.sr v }
  | .cause => { s with cause := { s.cause with sw := v.extractLsb' 8 2 } }
  | .epc => { s with epc := if s.cfg.epcWritable then v else s.epc }
  | .prid => s

/-- The four-bit code an exception posts (60_exceptions.md R205). -/
def excCodeOf (c : Config) (e : Exc) : BitVec 4 :=
  match e with
  | .int => c.excCodes.int
  | .adEL _ => c.excCodes.adEL
  | .adES _ => c.excCodes.adES
  | .ibe => c.excCodes.ibe
  | .dbe => c.excCodes.dbe
  | .sys => c.excCodes.sys
  | .bp => c.excCodes.bp
  | .ri => c.excCodes.ri
  | .cpU _ => c.excCodes.cpU
  | .ovf => c.excCodes.ovf

/-- What the spec requires of the parameters: `excCode` is injective on the ten kinds and
`excCode(Int)` is 0 (60_exceptions.md R205), and `CP0_WRITE_LATENCY` is at most 2
(70_reset_and_hazards.md R273). -/
abbrev Config.wf (c : Config) : Prop :=
  [c.excCodes.int, c.excCodes.adEL, c.excCodes.adES, c.excCodes.ibe, c.excCodes.dbe,
    c.excCodes.sys, c.excCodes.bp, c.excCodes.ri, c.excCodes.cpU, c.excCodes.ovf].Nodup ∧
    c.excCodes.int = 0#4 ∧ c.cp0WriteLatency ≤ 2

/-! ### CP0 writes not to be depended on yet (70_reset_and_hazards.md R273) -/

/-- The state with bits of a CP0 register inverted, for the bits that MTC0 and RFE can change. -/
def State.toggleCp0 (s : State) (r : Cp0Reg) (bits : Word) : State :=
  match r with
  | .bpc => { s with bpc := s.bpc ^^^ bits }
  | .bda => { s with bda := s.bda ^^^ bits }
  | .tar => s
  | .dcic => { s with dcic := s.dcic ^^^ bits }
  | .badA => s
  | .bdam => { s with bdam := s.bdam ^^^ bits }
  | .bpcm => { s with bpcm := s.bpcm ^^^ bits }
  | .sr => { s with sr := s.sr ^^^ bits }
  | .cause => { s with cause := { s.cause with sw := s.cause.sw ^^^ bits.extractLsb' 8 2 } }
  | .epc => { s with epc := s.epc ^^^ bits }
  | .prid => s

/-- The state as it would be had the newest, the two newest, ... of some CP0 writes not taken effect
yet. -/
def State.olderViews (s : State) : List Cp0Change → List State
  | [] => []
  | c :: l => s.toggleCp0 c.reg c.changed :: (s.toggleCp0 c.reg c.changed).olderViews l

/-- What `f` says of the state depends on bits changed by a CP0 write whose window is open (R273). -/
def State.unsettled {α : Type} [DecidableEq α] (s : State) (f : State → α) : Bool :=
  (s.olderViews s.cp0Window).any fun v => decide (f v ≠ f s)

/-- The open windows after one more instruction (R273). -/
def windowAfterInstr (l : List Cp0Change) : List Cp0Change :=
  (l.map fun c => { c with left := c.left - 1 }).filter fun c => c.left != 0

/-- The open windows after an exception entry, which itself writes the Status stack
(60_exceptions.md R204); the instruction it aborts does not count (R201). -/
def windowAfterEntry (l : List Cp0Change) : List Cp0Change :=
  (l.map fun c =>
    if c.reg = .sr then { c with changed := c.changed &&& ~~~0x3F#32 } else c).filter
      fun c => c.changed != 0#32

/-- Open the window of a CP0 write that changed some bits; `pop` says that it is the pop of an RFE
(R273). -/
def State.openCp0Window (s : State) (r : Cp0Reg) (changed : Word) (pop : Bool) : State :=
  { s with
    cp0Window :=
      if changed = 0#32 ∨ s.cfg.cp0WriteLatency = 0 then s.cp0Window
      else ⟨r, changed, pop, s.cfg.cp0WriteLatency⟩ :: s.cp0Window }

/-- An MTC0 whose window is open changed some of these bits of SR. That RFE or an exception entry moves
bits of the Status stack that an RFE has just moved is no such dependence: the pops and pushes act
one after the other (vector V-SY-25; log entry 10). -/
def State.stackUnsettled (s : State) (bits : Word) : Bool :=
  s.cp0Window.any fun c => decide (c.reg = .sr ∧ c.pop = false ∧ c.changed &&& bits ≠ 0#32)

/-! ### Usability, interrupts, debug conditions -/

/-- Coprocessor `z` may be used now (41_system_cp0.md R120). -/
def State.usable (s : State) (z : BitVec 2) : Bool :=
  s.cu z || (z == 0#2 && !s.kuc)

/-- The eight interrupt requests, INT5 in bit 7 down to Sw0 in bit 0 (60_exceptions.md R226,
R227). -/
def State.interruptRequests (s : State) : BitVec 8 :=
  (if s.env.intMask then 0#6 else s.env.int) ++ s.cause.sw

/-- `int_pending` (60_exceptions.md R226). -/
def State.interruptPending (s : State) : Bool :=
  s.iec && (s.interruptRequests &&& s.intMaskBits) != 0#8

/-- `dbg_on`: detection is enabled for the mode in force (60_exceptions.md R232). DCIC: DE is
bit 23, KD bit 29, UD bit 30 (10_state.md R37). -/
def State.debugOn (s : State) : Bool :=
  s.dcic.getLsbD 23 && (if s.kuc then s.dcic.getLsbD 30 else s.dcic.getLsbD 29)

/-- The masked comparison of a breakpoint (60_exceptions.md R233, R234). -/
def breakpointMatches (a b mask : Word) : Bool :=
  (a ^^^ b) &&& mask == 0#32

/-- `pc_hit` for the fetch at `a`; PCE is bit 24 of DCIC (R233). -/
def State.pcHit (s : State) (a : Word) : Bool :=
  s.debugOn && s.dcic.getLsbD 24 && breakpointMatches a s.bpc s.bpcm

/-- The coming fetch is non-sequential (R235). -/
def State.nonSequential (s : State) : Bool :=
  match s.arrival with
  | .sequential => false
  | .target => true
  | .vector => s.cfg.traceOnVector

/-- `trace_hit` for the coming fetch; TE is bit 28 of DCIC (R235). -/
def State.traceHit (s : State) : Bool :=
  s.debugOn && s.dcic.getLsbD 28 && s.nonSequential

/-- `da_hit` for a data access; DAE is bit 25, DR bit 26, DW bit 27 of DCIC (R234). -/
def State.daHit (s : State) (ea : Word) (store : Bool) : Bool :=
  s.debugOn && s.dcic.getLsbD 25 && breakpointMatches ea s.bda s.bdam &&
    (if store then s.dcic.getLsbD 27 else s.dcic.getLsbD 26)

/-- TR, bit 31 of DCIC: a debug condition traps (R236). -/
def State.debugTraps (s : State) : Bool := s.dcic.getLsbD 31

/-- The status bits a fetch posts: T is bit 5, PC bit 1 of DCIC (10_state.md R38, R236). -/
def State.fetchHitBits (s : State) : Word :=
  (if s.traceHit then 0x20#32 else 0#32) ||| (if s.pcHit s.pc then 0x02#32 else 0#32)

/-- The status bits a data access posts: DA is bit 2, W bit 4, R bit 3 of DCIC (R38, R236). -/
def State.dataHitBits (s : State) (ea : Word) (store : Bool) : Word :=
  if s.daHit ea store then (if store then 0x14#32 else 0x0C#32) else 0#32

/-- Post status bits in DCIC, with DB, bit 0, beside any other (R236). -/
def State.postDebug (s : State) (bits : Word) : State :=
  { s with dcic := if bits = 0#32 then s.dcic else s.dcic ||| bits ||| 1#32 }

end Sys2Proof.Machine
end

