-- ==== Sys2Proof/Machine/Operands.lean ====
section
/-! DEFINITION. How operands are read and assembled (30_encoding.md R84), with the load delay of
70_reset_and_hazards.md R270, and the targets of branches and jumps. -/

namespace Sys2Proof.Machine

/-- `x[r]` (10_state.md R10): x[0] reads as zero. -/
def State.gpr (s : State) (r : Reg) : Word :=
  if r = 0#5 then 0#32 else s.regs[r.toNat]'r.isLt

/-- What an instruction reads in register `r`: a free value where the instruction just before
loaded `r` (70_reset_and_hazards.md R270; log entry 9). -/
def State.operand (s : State) (u : FreeUse) (r : Reg) : Word :=
  if s.loadDelay = some r then Config.undef 32 u s.steps else s.gpr r

/-- The operand in field `rs`. -/
def State.rsVal (s : State) (r : Reg) : Word := s.operand .readRs r

/-- The operand in field `rt`. -/
def State.rtVal (s : State) (r : Reg) : Word := s.operand .readRt r

/-- `sext_32(imm)` (R84). -/
def signImm (imm : Half) : Word := imm.signExtend 32

/-- `zext_32(imm)` (R84). -/
def zeroImm (imm : Half) : Word := imm.setWidth 32

/-- `imm ++ 0x0000` (R84). -/
def upperImm (imm : Half) : Word := imm ++ 0#16

/-- The effective address `x[rs] + sext_32(imm)` (R84; 40_loads_stores.md R105). -/
def State.effectiveAddress (s : State) (rs : Reg) (imm : Half) : Word :=
  s.rsVal rs + signImm imm

/-- The branch target `(pc + 4) + sext_32(imm ++ 00)` (R84). -/
def State.branchTarget (s : State) (imm : Half) : Word :=
  s.pc + 4#32 + (imm ++ 0#2).signExtend 32

/-- The jump target `(pc + 4)[31:28] ++ target ++ 00` (R84). -/
def State.jumpTarget (s : State) (target : BitVec 26) : Word :=
  (s.pc + 4#32).extractLsb' 28 4 ++ target ++ 0#2

/-- The link value, the address after the delay slot (44_control_transfer.md R176). -/
def State.linkValue (s : State) : Word := s.pc + 8#32

/-- The condition of coprocessor `z`, the input CPC[z] (44_control_transfer.md R179). -/
def State.cpcond (s : State) (z : BitVec 2) : Bool := s.env.cpc.getLsbD z.toNat

end Sys2Proof.Machine
end

