-- ==== Sys2Proof/Machine/Ops.lean ====
section
/-! DEFINITION. The operations every instruction is made of: writing a register, moving on to the
next instruction (10_state.md R13), taking an exception (60_exceptions.md R203, R238) and
returning from one (41_system_cp0.md R128), branching, and data accesses (20_memory.md R62). -/

namespace Sys2Proof.Machine

/-- What a step, or the meaning of an instruction, answers. -/
abbrev Result := Host.Outcome State Fault Refusal

/-! ### Registers -/

/-- `x[r] <- v`: a write to x[0] is discarded (10_state.md R10). If the instruction just before
loaded the same register, which write survives is not known and the register holds a free value
(70_reset_and_hazards.md R270; log entry 9). -/
def State.writeGpr (s : State) (r : Reg) (v : Word) : State :=
  { s with
    regs :=
      if r = 0#5 then s.regs
      else s.regs.set r.toNat
        (if s.loadDelay = some r then Config.undef 32 .writeGpr s.steps else v) r.isLt }

/-! ### Going on to the next instruction (10_state.md R13) -/

/-- The delay-slot record is that of a taken branch. -/
def Delay.taken : Delay → Bool
  | .none => false
  | .slot t _ => t

/-- Where execution goes after the instruction at `pc`, no exception being raised: to the target
if that instruction stands in the slot of a taken branch, else to `pc + 4` (R13). -/
def State.nextPc (s : State) : Word :=
  match s.delay with
  | .slot true g => g
  | .slot false _ => s.pc + 4#32
  | .none => s.pc + 4#32

/-- The instruction at `pc` is done; `d` is the delay-slot record it leaves (R13). The load delay,
the windows of CP0 writes and the HI/LO distance count one instruction (70_reset_and_hazards.md R270,
R273, 43_muldiv.md R168), and the next fetch is marked if it follows the last word of the address space. -/
def State.retire (s : State) (d : Delay) : State :=
  { s with
    pc := s.nextPc
    delay := d
    arrival := if s.delay.taken then .target else .sequential
    wrapped := !s.delay.taken && decide (2 ^ 32 ≤ s.pc.toNat + 4)
    loadDelay := none
    hiloGuard := s.hiloGuard - 1
    cp0Window := windowAfterInstr s.cp0Window
    steps := s.steps + 1 }

/-- The instruction at `pc` is done and was no branch (R13). -/
def State.advance (s : State) : State := s.retire .none

/-- `branch(taken, target)` (R13): a branch or jump in a delay slot is refused (R13, D5). -/
def State.branch (s : State) (taken : Bool) (target : Word) : Result :=
  match s.delay with
  | .none => .next (s.retire (.slot taken target))
  | .slot _ _ => .refused .branchInDelaySlot

/-- Write a register and go on. -/
def State.writeAndAdvance (s : State) (r : Reg) (v : Word) : State :=
  (s.writeGpr r v).advance

/-- Write a register that cannot be read in the next instruction (a load or an MFC0) and go on
(70_reset_and_hazards.md R270). -/
def State.loadAndAdvance (s : State) (r : Reg) (v : Word) : State :=
  { s.writeAndAdvance r v with loadDelay := if r = 0#5 then none else some r }

/-! ### Taking an exception (60_exceptions.md R203, R238) -/

/-- The instruction writes HI or LO: one of the six of 43_muldiv.md R168. -/
def Instr.writesHiLo : Instr → Bool
  | .mult _ _ => true
  | .multu _ _ => true
  | .div _ _ => true
  | .divu _ _ => true
  | .mthi _ => true
  | .mtlo _ => true
  | .sll _ _ _ | .srl _ _ _ | .sllv _ _ _ | .add _ _ _ | .addu _ _ _ | .sub _ _ _
  | .subu _ _ _ | .and _ _ _ | .or _ _ _ | .addi _ _ _ | .addiu _ _ _ | .andi _ _ _
  | .ori _ _ _ | .lui _ _ | .mfhi _ | .mflo _ | .lh _ _ _ | .lw _ _ _ | .lhu _ _ _
  | .sh _ _ _ | .sw _ _ _ | .jr _ | .jalr _ _ | .bgez _ _ | .j _ | .jal _ | .beq _ _ _
  | .bne _ _ _ | .bc0f _ | .bc0t _ | .bc1f _ | .bc1t _ | .bc2f _ | .bc2t _ | .bc3f _
  | .bc3t _ | .syscall _ | .brk _ | .mfc0 _ _ | .mtc0 _ _ | .rfe => false

/-- The instruction that would execute right after the one at `pc` is a writer of HI or LO: the
word at the next pc, which no fetch reads if that is not a multiple of four (43_muldiv.md R168;
log entry 11). -/
def State.followerWritesHiLo (s : State) : Bool :=
  s.nextPc.extractLsb' 0 2 == 0#2 &&
    match decode (s.mem.readWord s.cfg.bigEndian s.nextPc.toNat) with
    | .ok i => Instr.writesHiLo i
    | .error _ => false

/-- The vector of the general exceptions (60_exceptions.md R206). -/
def State.generalVector (s : State) : Word :=
  if s.bev then 0xBFC00180#32 else 0x80000080#32

/-- The vector of the debug exception (R206). -/
def State.debugVector (s : State) : Word :=
  if s.bev then 0xBFC00140#32 else 0x80000040#32

/-- The restart location: the instruction at `pc`, or the branch before it (R203). -/
def State.restartPc (s : State) : Word :=
  match s.delay with
  | .none => s.pc
  | .slot _ _ => s.pc - 4#32

/-- Cause after an entry (R203): Sw keeps its value, BT outside a delay slot and CE of another
exception than CpU are free values. -/
def State.causeAfter (s : State) (e : Exc) : Cause where
  bd := match s.delay with
    | .none => false
    | .slot _ _ => true
  bt := match s.delay with
    | .none => (Config.undef 1 .causeBT s.steps).getLsbD 0
    | .slot t _ => t
  ce := match e with
    | .cpU z => z
    | _ => Config.undef 2 .causeCE s.steps
  sw := s.cause.sw
  excCode := excCodeOf s.cfg e

/-- TAR after an entry: the target if the branch was taken, else a free value (R203). -/
def State.tarAfter (s : State) : Word :=
  match s.delay with
  | .slot true g => g
  | .slot false _ => Config.undef 32 .tar s.steps
  | .none => Config.undef 32 .tar s.steps

/-- BadA after an entry: only an Address Error writes it (R203, 10_state.md R33). -/
def State.badAAfter (s : State) (e : Exc) : Word :=
  match e with
  | .adEL a => a
  | .adES a => a
  | _ => s.badA

/-- Exception entry, on the instruction at `pc`, to the handler at `vector` (R203). The load delay
does not cross an entry (70_reset_and_hazards.md R270); the HI/LO distance does, and the instruction
that is aborted here does not count for it (43_muldiv.md R168, log entry 11). -/
def State.enter (s : State) (e : Exc) (vector : Word) : State :=
  { s with
    epc := s.restartPc
    cause := s.causeAfter e
    tar := s.tarAfter
    badA := s.badAAfter e
    sr := pushStatus s.sr
    hi := if s.followerWritesHiLo then Config.undef 32 .hi s.steps else s.hi
    lo := if s.followerWritesHiLo then Config.undef 32 .lo s.steps else s.lo
    pc := vector
    delay := .none
    arrival := .vector
    wrapped := false
    loadDelay := none
    cp0Window := windowAfterEntry s.cp0Window
    steps := s.steps + 1 }

/-- `GeneralException(E)` (R203): every exception but Reset and Debug. -/
def State.raise (s : State) (e : Exc) : State := s.enter e s.generalVector

/-- `DebugException()` (R238): posts the Breakpoint code, goes to the debug vector. -/
def State.raiseDebug (s : State) : State := s.enter .bp s.debugVector

/-! ### Returning from an exception (41_system_cp0.md R128) -/

/-- Pop the Status stack (R128). The jump back is an ordinary JR (60_exceptions.md R242). -/
def State.popStatusStack (s : State) : State := { s with sr := popStatus s.sr }

/-- RFE where CP0 is usable (R128). In the slot of the return jump it is the exception to R273, and
opens no window: the target runs in the restored mode (60_exceptions.md R242). -/
def State.restoreStatus (s : State) : State :=
  if s.delay.taken then s.popStatusStack.advance
  else s.popStatusStack.advance.openCp0Window .sr (s.sr ^^^ popStatus s.sr) true

/-- MTC0 to a register that exists, where CP0 is usable: the write takes effect in this step
(41_system_cp0.md R126), and the bits it changed must not be depended on yet
(70_reset_and_hazards.md R273). -/
def State.moveToCp0 (s : State) (r : Cp0Reg) (v : Word) : State :=
  (s.writeCp0 r v).advance.openCp0Window r (s.readCp0 r ^^^ (s.writeCp0 r v).readCp0 r) false

/-! ### Accesses to memory (20_memory.md R60 to R62) -/

/-- An access that may end the step instead of giving a value. -/
inductive Access (α : Type) where
  /-- The access is done: the state after it (DCIC may have posted a debug condition) and what
  it read. -/
  | done (s : State) (v : α)
  /-- The step ends here. -/
  | stop (r : Host.Outcome State Fault Refusal)

/-- An Address Error: not a multiple of the width, or a kernel address in user mode
(60_exceptions.md R213). -/
def State.addressError (s : State) (a : Word) (bytes : Nat) : Bool :=
  a.toNat % bytes != 0 || (s.kuc && a.msb)

/-- The checks of R62 on a data access that come before the platform's answer: address error,
cache isolation, data-address breakpoint, in this order. -/
def State.checkAccess (s : State) (ea : Word) (w : Width) (store : Bool) : Access Unit :=
  if s.addressError ea w.bytes then
    .stop (.next (s.raise (if store then .adES ea else .adEL ea)))
  else if s.isc then .stop (.refused .cacheIsolated)
  else
    let bits := s.dataHitBits ea store
    let t := s.postDebug bits
    if bits != 0#32 && t.debugTraps then .stop (.next t.raiseDebug)
    else .done t ()

/-- `MemRead(ea, n)`, extended to a word by `ext` if it is a halfword. -/
def State.readData (s : State) (ea : Word) (w : Width) (ext : Half → Word) : Word :=
  match w with
  | .half => ext (s.mem.readHalf s.cfg.bigEndian ea.toNat)
  | .word => s.mem.readWord s.cfg.bigEndian ea.toNat

/-- A load from `ea` (R62; a bus error is DBE, 60_exceptions.md R216). -/
def State.loadData (s : State) (ea : Word) (w : Width) (ext : Half → Word) : Access Word :=
  match s.checkAccess ea w false with
  | .stop r => .stop r
  | .done t _ =>
    if !platformAnswers t.cfg ea.toNat w.bytes .load then
      if berrPromised t.cfg ea.toNat w.bytes .load then .stop (.next (t.raise .dbe))
      else .stop (.fault .stuckAccess)
    else if t.env.berrData then .stop (.next (t.raise .dbe))
    else .done t (t.readData ea w ext)

/-- The bytes a store writes (R56): the low half of the register for a halfword. -/
def State.storeBytes (s : State) (w : Width) (v : Word) : List Byte :=
  match w with
  | .half => halfBytes s.cfg.bigEndian (v.extractLsb' 0 16)
  | .word => wordBytes s.cfg.bigEndian v

/-- Put bytes into memory and remember their addresses (R56, R66). -/
def State.putBytes (s : State) (ea : Word) (bs : List Byte) : State :=
  { s with
    mem := s.mem.writeBytes ea.toNat bs
    stored := insertAddresses s.stored ea.toNat bs.length }

/-- What a failed store leaves in its bytes: free values (60_exceptions.md R217). -/
def State.lostBytes (s : State) (w : Width) : List Byte :=
  (List.range w.bytes).map fun i => Config.undef 8 (.storeByte i) s.steps

/-- A store whose bus transaction ends in BERR: its bytes hold free values from then on and a
DBE is still to come (60_exceptions.md R217). -/
def State.failStore (s : State) (ea : Word) (w : Width) : State :=
  { s.putBytes ea (s.lostBytes w) with pendingStoreErrors := s.pendingStoreErrors + 1 }

/-- A store of `v` to `ea` (R62; a bus error comes later, 60_exceptions.md R217). -/
def State.storeData (s : State) (ea : Word) (w : Width) (v : Word) : Access Unit :=
  match s.checkAccess ea w true with
  | .stop r => .stop r
  | .done t _ =>
    if !platformAnswers t.cfg ea.toNat w.bytes .store then
      if berrPromised t.cfg ea.toNat w.bytes .store then .done (t.failStore ea w) ()
      else .stop (.fault .stuckAccess)
    else if t.env.berrData then .done (t.failStore ea w) ()
    else .done (t.putBytes ea (t.storeBytes w v)) ()

/-! ### Shared shapes of meanings -/

/-- A load instruction: the access, then the register, then on. -/
def State.load (s : State) (rt rs : Reg) (imm : Half) (w : Width) (ext : Half → Word) : Result :=
  match s.loadData (s.effectiveAddress rs imm) w ext with
  | .stop r => r
  | .done t v => .next (t.loadAndAdvance rt v)

/-- A store instruction. -/
def State.store (s : State) (rt rs : Reg) (imm : Half) (w : Width) : Result :=
  match s.storeData (s.effectiveAddress rs imm) w (s.rtVal rt) with
  | .stop r => r
  | .done t _ => .next t.advance

/-- The instruction at `pc` may write HI and LO: none of the two instructions executed before it was
an MFHI or MFLO, and it is not one of the two instructions that follow, in the program, an MFHI or
MFLO executed in this run, whatever exceptions came between (43_muldiv.md R168; log entry 11). -/
def State.mayWriteHiLo (s : State) : Bool :=
  s.hiloGuard == 0 && !s.hiloFollowers.contains s.pc.toNat

/-- Writing HI and LO: refused within two instructions after MFHI or MFLO (43_muldiv.md R168). -/
def State.writeHiLo (s : State) (hi lo : Word) : Result :=
  if s.mayWriteHiLo then .next { s with hi := hi, lo := lo }.advance
  else .refused .hiloReorganization

/-- The remembered addresses and those of the two instructions that follow the one at `pc` in the
program: if that is no branch, they stand at the next pc and four after it (10_state.md R13,
43_muldiv.md R168). R168 does not say whether they count if they are not reached from here: in the
slot of a taken branch or jump whose target's fetch then faults (AdEL, IBE), after a first one that
raises, or past 0xFFFFFFFC, where the sum wraps. They are remembered then too: DESIGN CHOICE, safe,
log entry 11. -/
def State.followersAfterRead (s : State) : List Nat :=
  insertAddress (insertAddress s.hiloFollowers s.nextPc.toNat) (s.nextPc + 4#32).toNat

/-- Reading HI or LO into a register; a writer of HI or LO must not follow within two
instructions (43_muldiv.md R168). -/
def State.moveFromHiLo (s : State) (rd : Reg) (v : Word) : Result :=
  .next { s.writeAndAdvance rd v with
    hiloGuard := 2
    hiloFollowers := s.followersAfterRead }

/-- A branch on the condition of coprocessor `z` (44_control_transfer.md R179, R180): usability
first (41_system_cp0.md R120). -/
def State.copBranch (s : State) (z : BitVec 2) (sense : Bool) (imm : Half) : Result :=
  if s.usable z then s.branch (s.cpcond z == sense) (s.branchTarget imm)
  else .next (s.raise (.cpU z))

end Sys2Proof.Machine
end

