-- ==== Sys2Proof/Machine/Boundary.lean ====
section
/-! DEFINITION. What happens at an instruction boundary: reset (70_reset_and_hazards.md R260), a
parity error (10_state.md R25), a store's late bus error (60_exceptions.md R217), an interrupt
(R228), the fetch with its checks (20_memory.md R60), and words that are no instruction of the
table (30_encoding.md R88, R89; 41_system_cp0.md R129). -/

namespace Sys2Proof.Machine

/-! ### The environment (00_scope.md R7, log entry 4) -/

/-- The environment after its schedule is used up: no event, the pins as they are, and nothing
deferred any longer. A schedule is finite, so an interrupt that stays pending is taken after
finitely many steps (60_exceptions.md R228), and a store's bus error arrives after finitely many
(R217); log entries 4, 5, 19. -/
def Env.hold (e : Env) : Env :=
  { e with
    reset := none
    parityError := false
    berrFetch := false
    berrData := false
    takeInterrupt := true
    deliverStoreError := true }

/-- The environment moves on to the next step. -/
def State.nextEnv (s : State) : State :=
  { s with
    env := s.schedule.head?.getD (Env.hold s.env)
    schedule := s.schedule.tail }

/-- A parity error sets SR.PE and does nothing else: the event is used up, so that nothing after this
can see it (10_state.md R25, D28). -/
def State.notePar (s : State) : State :=
  { s with
    sr := if s.env.parityError then s.sr ||| srPe else s.sr
    env := { s.env with parityError := false } }

/-! ### Reset (70_reset_and_hazards.md R260, R261; 10_state.md R43) -/

/-- What a reset event leaves in a register that only a cold reset makes undefined. -/
def afterReset (k : ResetKind) (old undefined : Word) : Word :=
  match k with
  | .cold => undefined
  | .warm => old

/-- A reset event: the values of 10_state.md R43, free values where it says undefined, the memory
the environment gives (R260; log entry 20). The addresses that follow an MFHI or MFLO of
the program stay (43_muldiv.md R168; log entry 11). The record of stored bytes stays too: a fetch of one is
refused for the rest of the run, as the caches are not known after a reset (20_memory.md R66, U3;
log entry 14). -/
def State.resetBy (s : State) (ev : ResetEvent) : State :=
  { s with
    regs := Vector.ofFn fun i : Fin 32 =>
      if i.val = 0 then 0#32 else Config.undef 32 (.gpr i.val) s.steps
    hi := Config.undef 32 .hi s.steps
    lo := Config.undef 32 .lo s.steps
    pc := resetVector
    delay := .none
    sr := resetSr
    cause := resetCause
    epc := afterReset ev.kind s.epc (Config.undef 32 .epc s.steps)
    tar := afterReset ev.kind s.tar (Config.undef 32 .tar s.steps)
    badA := Config.undef 32 .badA s.steps
    bpc := afterReset ev.kind s.bpc (Config.undef 32 .bpc s.steps)
    bpcm := resetMask
    bda := afterReset ev.kind s.bda (Config.undef 32 .bda s.steps)
    bdam := resetMask
    dcic := 0#32
    mem := Memory.ofCells ev.memory
    arrival := .sequential
    loadDelay := none
    hiloGuard := 0
    cp0Window := []
    pendingStoreErrors := if ev.storesComplete then s.pendingStoreErrors else 0
    wrapped := false
    steps := s.steps + 1 }

/-! ### The fetch (20_memory.md R59, R60) -/

/-- Some of the `n` bytes at `a` have been stored to (20_memory.md R66). -/
def State.storedIn (s : State) (a n : Nat) : Bool :=
  s.stored.any fun x => decide (a ≤ x ∧ x < a + n)

/-- The fetch of the instruction at `pc`: address error, debug conditions, the platform's answer,
in this order (R60); a byte the CPU has stored to is refused (R66). -/
def State.fetch (s : State) : Access Word :=
  if s.addressError s.pc 4 then .stop (.next (s.raise (.adEL s.pc)))
  else
    let bits := s.fetchHitBits
    let t := s.postDebug bits
    if bits != 0#32 && t.debugTraps then .stop (.next t.raiseDebug)
    else if !platformAnswers t.cfg t.pc.toNat 4 .fetch then
      if berrPromised t.cfg t.pc.toNat 4 .fetch then .stop (.next (t.raise .ibe))
      else .stop (.fault .stuckAccess)
    else if t.env.berrFetch then .stop (.next (t.raise .ibe))
    else if t.storedIn t.pc.toNat 4 then .stop (.refused .fetchOfStoredByte)
    else .done t (t.mem.readWord t.cfg.bigEndian t.pc.toNat)

/-! ### Dependence on a CP0 write (70_reset_and_hazards.md R272 to R274; log entry 10) -/

/-- What SR and the debug registers say of the coming fetch: that it is an address error, or which
debug conditions it posts and whether they trap (20_memory.md R60). -/
def State.fetchOutlook (s : State) : Option (Word × Bool) :=
  if s.addressError s.pc 4 then none
  else some (s.fetchHitBits, s.fetchHitBits != 0#32 && s.debugTraps)

/-- What SR and the debug registers say of a data access: that it is an address error, or whether
the cache is isolated, which debug condition it posts and whether it traps (20_memory.md R62). -/
def State.accessOutlook (s : State) (ea : Word) (w : Width) (store : Bool) :
    Option (Bool × Word × Bool) :=
  if s.addressError ea w.bytes then none
  else some (s.isc, s.dataHitBits ea store, s.dataHitBits ea store != 0#32 && s.debugTraps)

/-- What a register number gives MFC0 to read, where CP0 is usable (41_system_cp0.md R124). -/
def State.readOutlook (s : State) (n : Reg) : Option Word :=
  if s.usable 0#2 then
    match cp0Number n with
    | .reg r => some (s.readCp0 r)
    | .absent => some 0#32
    | .unused => some 0#32
  else none

/-- What MTC0 of `x` leaves in a register, where CP0 is usable (41_system_cp0.md R126). -/
def State.writeOutlook (s : State) (n : Reg) (x : Word) : Option Word :=
  if s.usable 0#2 then
    match cp0Number n with
    | .reg r => some ((s.writeCp0 r x).readCp0 r)
    | .absent => some 0#32
    | .unused => some 0#32
  else none

/-- The behaviour of an instruction, but for an exception entry, depends on bits of an open window
(R273): a data access, a usability test, what a CP0 register holds, the bits of SR that RFE pops. -/
def State.instrUnsettled (s : State) : Instr → Bool
  | .lw _ rs imm => s.unsettled fun v => v.accessOutlook (s.effectiveAddress rs imm) .word false
  | .lh _ rs imm | .lhu _ rs imm =>
    s.unsettled fun v => v.accessOutlook (s.effectiveAddress rs imm) .half false
  | .sw _ rs imm => s.unsettled fun v => v.accessOutlook (s.effectiveAddress rs imm) .word true
  | .sh _ rs imm => s.unsettled fun v => v.accessOutlook (s.effectiveAddress rs imm) .half true
  | .mfc0 _ rd => s.unsettled fun v => v.readOutlook rd
  | .mtc0 rt rd => s.unsettled fun v => v.writeOutlook rd (s.rtVal rt)
  | .rfe => (s.unsettled fun v => v.usable 0#2) || s.stackUnsettled 0x3C#32
  | .bc0f _ | .bc0t _ => s.unsettled fun v => v.usable 0#2
  | .bc1f _ | .bc1t _ => s.unsettled fun v => v.usable 1#2
  | .bc2f _ | .bc2t _ => s.unsettled fun v => v.usable 2#2
  | .bc3f _ | .bc3t _ => s.unsettled fun v => v.usable 3#2
  | .sll _ _ _ | .srl _ _ _ | .sllv _ _ _ | .add _ _ _ | .addu _ _ _ | .sub _ _ _
  | .subu _ _ _ | .and _ _ _ | .or _ _ _ | .addi _ _ _ | .addiu _ _ _ | .andi _ _ _
  | .ori _ _ _ | .lui _ _ | .mfhi _ | .mthi _ | .mflo _ | .mtlo _ | .mult _ _ | .multu _ _
  | .div _ _ | .divu _ _ | .jr _ | .jalr _ _ | .bgez _ _ | .j _ | .jal _ | .beq _ _ _
  | .bne _ _ _ | .syscall _ | .brk _ => false

/-- The vector of an exception entry, or what it pushes, depends on bits of an open window (R273). -/
def State.entryUnsettled (s : State) : Bool :=
  s.unsettled State.bev || s.stackUnsettled 0x0F#32

/-- The outcome `r` of an instruction, or of its fetch, in `s`: an exception entry that depends on bits
of an open window is refused (R273). A late bus error or an interrupt is no instruction of the
program: it is taken with the bits as they are (R228, R273; log entry 10). -/
def State.checkEntry (s : State) (r : Result) : Result :=
  match r with
  | .next t =>
    if s.entryUnsettled && t.arrival == .vector then .refused .cp0WriteWindow else .next t
  | .fault f => .fault f
  | .refused x => .refused x

/-- The fetch of the instruction at `pc`, which must not depend on bits of an open window (R273,
R274). -/
def State.checkedFetch (s : State) : Access Word :=
  if s.unsettled State.fetchOutlook then .stop (.refused .cp0WriteWindow)
  else
    match s.fetch with
    | .stop r => .stop (s.checkEntry r)
    | .done t w => .done t w

/-- A store's bus error arrives at this boundary (60_exceptions.md R217). -/
def State.storeErrorDue (s : State) : Bool :=
  s.pendingStoreErrors != 0 && s.env.deliverStoreError

/-- An interrupt is taken at this boundary (60_exceptions.md R228). -/
def State.interruptTaken (s : State) : Bool :=
  s.interruptPending && s.env.takeInterrupt

/-- What comes before the execution of the instruction at `pc`: a fetch that follows the top of
the address space is refused (10_state.md R13), then a late bus error, an interrupt, the fetch
(log entry 21). -/
def State.fetchPhase (s : State) : Access Word :=
  if s.wrapped then .stop (.refused .fetchPastTop)
  else if s.storeErrorDue then
    .stop (.next ({ s with pendingStoreErrors := s.pendingStoreErrors - 1 }.raise .dbe))
  else if s.interruptTaken then .stop (.next (s.raise .int))
  else s.checkedFetch

/-! ### Words that are no instruction of the table -/

/-- The coprocessor that a word addresses by its major operation code: 16 + z (41_system_cp0.md
R120), and 48 + z and 56 + z for the coprocessor loads and stores (R129). R129 gives those codes
but not which of them belongs to which z: that z is the low two bits of the code is the model's
choice. PRESUMED (the family's numbering), unsafe, log entry 22. -/
def coprocessorOf (w : Word) : Option (BitVec 2) :=
  let op := (opField w).toNat
  if (16 ≤ op ∧ op ≤ 19) ∨ (48 ≤ op ∧ op ≤ 51) ∨ (56 ≤ op ∧ op ≤ 59) then
    some ((opField w).extractLsb' 0 2)
  else none

/-- `ReservedOpcode(w)` (30_encoding.md R88). -/
def reservedOpcode (c : Config) (w : Word) : Bool :=
  c.reservedWords.any fun p => w &&& p.mask == p.value

/-- A word that is no instruction of the table: the usability test first if it addresses a
coprocessor (R129, R120), then Reserved Instruction if it is reserved (R88), else refused
(R89; log entry 22). -/
def State.undecoded (s : State) (w : Word) : Result :=
  match coprocessorOf w with
  | some z =>
    if !s.usable z then .next (s.raise (.cpU z))
    else if reservedOpcode s.cfg w then .next (s.raise .ri)
    else .refused .coprocessorWord
  | none =>
    if reservedOpcode s.cfg w then .next (s.raise .ri)
    else .refused .wordOutsideTable

/-- The behaviour of a fetched word depends on bits of an open window (70_reset_and_hazards.md R273). -/
def State.wordUnsettled (s : State) (w : Word) : Bool :=
  match decode w with
  | .ok i => s.instrUnsettled i
  | .error _ =>
    match coprocessorOf w with
    | some z => s.unsettled fun v => v.usable z
    | none => false

/-- Move the environment on after a step that goes on. -/
def settleEnv (r : Result) : Result :=
  match r with
  | .next t => .next t.nextEnv
  | .fault f => .fault f
  | .refused x => .refused x

/-- Put an instruction word, `nbits` bits of `w`, where the next fetch reads it. -/
def State.placeWord (s : State) (nbits w : Nat) : State :=
  { s with
    mem := s.mem.writeBytes s.pc.toNat
      (wordBytes s.cfg.bigEndian (BitVec.ofNat 32 (w % 2 ^ nbits)))
    stored := s.stored.filter fun x => !decide (s.pc.toNat ≤ x ∧ x < s.pc.toNat + 4) }

end Sys2Proof.Machine
end

