-- ==== Sys2Proof/Machine/Arithmetic.lean ====
section
/-! DEFINITION. Arithmetic, logic and shifts (42_arithmetic.md). -/

namespace Sys2Proof.Machine

/-- ADD (R140): overflow raises Ovf and writes nothing. -/
def execAdd (rd rs rt : Reg) (s : State) : Result :=
  if addOverflows (s.rsVal rs) (s.rtVal rt) then .next (s.raise .ovf)
  else .next (s.writeAndAdvance rd (s.rsVal rs + s.rtVal rt))

/-- ADDU (R141). -/
def execAddu (rd rs rt : Reg) (s : State) : Result :=
  .next (s.writeAndAdvance rd (s.rsVal rs + s.rtVal rt))

/-- SUB (R142): overflow raises Ovf and writes nothing. -/
def execSub (rd rs rt : Reg) (s : State) : Result :=
  if subOverflows (s.rsVal rs) (s.rtVal rt) then .next (s.raise .ovf)
  else .next (s.writeAndAdvance rd (s.rsVal rs - s.rtVal rt))

/-- SUBU (R143). -/
def execSubu (rd rs rt : Reg) (s : State) : Result :=
  .next (s.writeAndAdvance rd (s.rsVal rs - s.rtVal rt))

/-- AND (R144). -/
def execAnd (rd rs rt : Reg) (s : State) : Result :=
  .next (s.writeAndAdvance rd (s.rsVal rs &&& s.rtVal rt))

/-- OR (R145). -/
def execOr (rd rs rt : Reg) (s : State) : Result :=
  .next (s.writeAndAdvance rd (s.rsVal rs ||| s.rtVal rt))

/-- ADDI (R146): overflow raises Ovf and writes nothing. -/
def execAddi (rt rs : Reg) (imm : Half) (s : State) : Result :=
  if addOverflows (s.rsVal rs) (signImm imm) then .next (s.raise .ovf)
  else .next (s.writeAndAdvance rt (s.rsVal rs + signImm imm))

/-- ADDIU (R147): the immediate is sign-extended. -/
def execAddiu (rt rs : Reg) (imm : Half) (s : State) : Result :=
  .next (s.writeAndAdvance rt (s.rsVal rs + signImm imm))

/-- ANDI (R148): the immediate is zero-extended. -/
def execAndi (rt rs : Reg) (imm : Half) (s : State) : Result :=
  .next (s.writeAndAdvance rt (s.rsVal rs &&& zeroImm imm))

/-- ORI (R149): the immediate is zero-extended. -/
def execOri (rt rs : Reg) (imm : Half) (s : State) : Result :=
  .next (s.writeAndAdvance rt (s.rsVal rs ||| zeroImm imm))

/-- SLL (R150). -/
def execSll (rd rt shamt : Reg) (s : State) : Result :=
  .next (s.writeAndAdvance rd (s.rtVal rt <<< shamt.toNat))

/-- SRL (R151): zeros enter at the left. -/
def execSrl (rd rt shamt : Reg) (s : State) : Result :=
  .next (s.writeAndAdvance rd (s.rtVal rt >>> shamt.toNat))

/-- SLLV (R152): only the low five bits of x[rs] count. -/
def execSllv (rd rt rs : Reg) (s : State) : Result :=
  .next (s.writeAndAdvance rd (s.rtVal rt <<< ((s.rsVal rs).extractLsb' 0 5).toNat))

/-- LUI (R153). -/
def execLui (rt : Reg) (imm : Half) (s : State) : Result :=
  .next (s.writeAndAdvance rt (upperImm imm))

end Sys2Proof.Machine
end

