-- ==== Sys2Proof/Machine/Control.lean ====
section
/-! DEFINITION. Branches and jumps (44_control_transfer.md). -/

namespace Sys2Proof.Machine

/-- BEQ (R172). -/
def execBeq (rs rt : Reg) (imm : Half) (s : State) : Result :=
  s.branch (s.rsVal rs == s.rtVal rt) (s.branchTarget imm)

/-- BNE (R173). -/
def execBne (rs rt : Reg) (imm : Half) (s : State) : Result :=
  s.branch (s.rsVal rs != s.rtVal rt) (s.branchTarget imm)

/-- BGEZ (R174). -/
def execBgez (rs : Reg) (imm : Half) (s : State) : Result :=
  s.branch (!(s.rsVal rs).msb) (s.branchTarget imm)

/-- J (R175). -/
def execJ (target : BitVec 26) (s : State) : Result :=
  s.branch true (s.jumpTarget target)

/-- JAL (R176): the link register is x[31]. -/
def execJal (target : BitVec 26) (s : State) : Result :=
  (s.writeGpr 31#5 s.linkValue).branch true (s.jumpTarget target)

/-- JR (R177). -/
def execJr (rs : Reg) (s : State) : Result :=
  s.branch true (s.rsVal rs)

/-- JALR (R178): refused with `rd` = `rs`; the target is read before the link is written. -/
def execJalr (rd rs : Reg) (s : State) : Result :=
  if rd = rs then .refused .jalrSameRegister
  else (s.writeGpr rd s.linkValue).branch true (s.rsVal rs)

/-- BC0F (R179). -/
def execBc0f (imm : Half) (s : State) : Result := s.copBranch 0#2 false imm
/-- BC0T (R180). -/
def execBc0t (imm : Half) (s : State) : Result := s.copBranch 0#2 true imm
/-- BC1F (R179). -/
def execBc1f (imm : Half) (s : State) : Result := s.copBranch 1#2 false imm
/-- BC1T (R180). -/
def execBc1t (imm : Half) (s : State) : Result := s.copBranch 1#2 true imm
/-- BC2F (R179). -/
def execBc2f (imm : Half) (s : State) : Result := s.copBranch 2#2 false imm
/-- BC2T (R180). -/
def execBc2t (imm : Half) (s : State) : Result := s.copBranch 2#2 true imm
/-- BC3F (R179). -/
def execBc3f (imm : Half) (s : State) : Result := s.copBranch 3#2 false imm
/-- BC3T (R180). -/
def execBc3t (imm : Half) (s : State) : Result := s.copBranch 3#2 true imm

end Sys2Proof.Machine
end

