-- ==== Sys2Proof/Machine/LoadStore.lean ====
section
/-! DEFINITION. Loads and stores (40_loads_stores.md). -/

namespace Sys2Proof.Machine

/-- LW (R106). -/
def execLw (rt rs : Reg) (imm : Half) (s : State) : Result :=
  s.load rt rs imm .word signImm

/-- LH (R107): the halfword is sign-extended. -/
def execLh (rt rs : Reg) (imm : Half) (s : State) : Result :=
  s.load rt rs imm .half signImm

/-- LHU (R108): the halfword is zero-extended. -/
def execLhu (rt rs : Reg) (imm : Half) (s : State) : Result :=
  s.load rt rs imm .half zeroImm

/-- SW (R109). -/
def execSw (rt rs : Reg) (imm : Half) (s : State) : Result :=
  s.store rt rs imm .word

/-- SH (R110). -/
def execSh (rt rs : Reg) (imm : Half) (s : State) : Result :=
  s.store rt rs imm .half

end Sys2Proof.Machine
end

