-- ==== Sys2Proof/Machine/MulDiv.lean ====
section
/-! DEFINITION. Multiply, divide and the multiply/divide register (43_muldiv.md). -/

namespace Sys2Proof.Machine

/-- The exact signed product as 64 bits (R160). -/
def signedProduct (a b : Word) : BitVec 64 := BitVec.ofInt 64 (a.toInt * b.toInt)

/-- The exact unsigned product as 64 bits (R161). -/
def unsignedProduct (a b : Word) : BitVec 64 := BitVec.ofNat 64 (a.toNat * b.toNat)

/-- The high half of a product, which goes to HI (R160). -/
def highWord (p : BitVec 64) : Word := p.extractLsb' 32 32

/-- The low half of a product, which goes to LO (R160). -/
def lowWord (p : BitVec 64) : Word := p.extractLsb' 0 32

/-- The signed divisions whose result is undefined: by zero, and -2^31 by -1 (R162). -/
def signedDivisionOpen (n d : Word) : Bool :=
  d == 0#32 || (n == 0x80000000#32 && d == 0xFFFFFFFF#32)

/-- The quotient rounded toward zero (R162). -/
def signedQuotient (n d : Word) : Word := BitVec.ofInt 32 (n.toInt.tdiv d.toInt)

/-- `n - d * quotient`, with the sign of the dividend (R162). -/
def signedRemainder (n d : Word) : Word :=
  BitVec.ofInt 32 (n.toInt - d.toInt * n.toInt.tdiv d.toInt)

/-- The quotient rounded down (R163). -/
def unsignedQuotient (n d : Word) : Word := BitVec.ofNat 32 (n.toNat / d.toNat)

/-- The remainder (R163). -/
def unsignedRemainder (n d : Word) : Word := BitVec.ofNat 32 (n.toNat % d.toNat)

/-- MULT (R160). -/
def execMult (rs rt : Reg) (s : State) : Result :=
  let p := signedProduct (s.rsVal rs) (s.rtVal rt)
  s.writeHiLo (highWord p) (lowWord p)

/-- MULTU (R161). -/
def execMultu (rs rt : Reg) (s : State) : Result :=
  let p := unsignedProduct (s.rsVal rs) (s.rtVal rt)
  s.writeHiLo (highWord p) (lowWord p)

/-- DIV (R162): HI and LO hold free values where the result is undefined; no exception. -/
def execDiv (rs rt : Reg) (s : State) : Result :=
  let n := s.rsVal rs
  let d := s.rtVal rt
  if signedDivisionOpen n d then
    s.writeHiLo (Config.undef 32 .hi s.steps) (Config.undef 32 .lo s.steps)
  else s.writeHiLo (signedRemainder n d) (signedQuotient n d)

/-- DIVU (R163): HI and LO hold free values if the divisor is zero; no exception. -/
def execDivu (rs rt : Reg) (s : State) : Result :=
  let n := s.rsVal rs
  let d := s.rtVal rt
  if d = 0#32 then
    s.writeHiLo (Config.undef 32 .hi s.steps) (Config.undef 32 .lo s.steps)
  else s.writeHiLo (unsignedRemainder n d) (unsignedQuotient n d)

/-- MFHI (R164). -/
def execMfhi (rd : Reg) (s : State) : Result := s.moveFromHiLo rd s.hi

/-- MFLO (R165). -/
def execMflo (rd : Reg) (s : State) : Result := s.moveFromHiLo rd s.lo

/-- MTHI (R166): LO keeps its value. -/
def execMthi (rs : Reg) (s : State) : Result := s.writeHiLo (s.rsVal rs) s.lo

/-- MTLO (R167): HI keeps its value. -/
def execMtlo (rs : Reg) (s : State) : Result := s.writeHiLo s.hi (s.rsVal rs)

end Sys2Proof.Machine
end

