-- ==== Sys2Proof/Machine/System.lean ====
section
/-! DEFINITION. System calls, breakpoints, moves to and from CP0, RFE (41_system_cp0.md). -/

namespace Sys2Proof.Machine

/-- SYSCALL (R121): the `code` field is ignored. -/
def execSyscall (_code : BitVec 20) (s : State) : Result := .next (s.raise .sys)

/-- BREAK (R122): the `code` field is ignored. -/
def execBreak (_code : BitVec 20) (s : State) : Result := .next (s.raise .bp)

/-- MFC0 (R124): RI where CP0 is not usable (R120) or the register does not exist; no effect for
the unused numbers 16 to 31. -/
def execMfc0 (rt rd : Reg) (s : State) : Result :=
  if s.usable 0#2 then
    match cp0Number rd with
    | .absent => .next (s.raise .ri)
    | .unused => .next s.advance
    | .reg r => .next (s.loadAndAdvance rt (s.readCp0 r))
  else .next (s.raise .ri)

/-- MTC0 (R126): RI where CP0 is not usable (R120) or the register does not exist; no effect for
the unused numbers 16 to 31. -/
def execMtc0 (rt rd : Reg) (s : State) : Result :=
  if s.usable 0#2 then
    match cp0Number rd with
    | .absent => .next (s.raise .ri)
    | .unused => .next s.advance
    | .reg r => .next (s.moveToCp0 r (s.rtVal rt))
  else .next (s.raise .ri)

/-- RFE (R128): pops the Status stack; it does not jump. RI where CP0 is not usable (R120). -/
def execRfe (s : State) : Result :=
  if s.usable 0#2 then .next s.restoreStatus
  else .next (s.raise .ri)

end Sys2Proof.Machine
end

