-- ==== Sys2Proof/Machine/Step.lean ====
section
/-! DEFINITION. One step of the machine: an event at the boundary, or one instruction
(10_state.md R13, 30_encoding.md R86). -/

namespace Sys2Proof.Machine

/-- What a fetched word does (30_encoding.md R86). -/
def meaning (s : State) (w : Word) : Host.Outcome State Fault Refusal :=
  match decode w with
  | .ok i => exec i s
  | .error _ => s.undecoded w

/-- Execute a fetched word, which must not depend on bits of a CP0 write whose window is open
(70_reset_and_hazards.md R273). -/
def runWord (s : State) (w : Word) : Host.Outcome State Fault Refusal :=
  if s.wordUnsettled w then .refused .cp0WriteWindow else s.checkEntry (meaning s w)

/-- A step in which no reset event happens. -/
def runBoundary (s : State) : Host.Outcome State Fault Refusal :=
  match s.fetchPhase with
  | .stop r => r
  | .done t w => runWord t w

/-- One step: a reset event if there is one (70_reset_and_hazards.md R260), else a parity error
is noted (10_state.md R25) and the boundary and the instruction at `pc` run; then the
environment moves on. -/
def step (s : State) : Host.Outcome State Fault Refusal :=
  match s.env.reset with
  | some ev => .next (s.resetBy ev).nextEnv
  | none => settleEnv (runBoundary s.notePar)

/-- The state with an instruction word stored where `step` fetches its next instruction (log
entry 25). -/
def State.withFetchWord (s : State) (nbits w : Nat) : State := s.placeWord nbits w

end Sys2Proof.Machine
end

