-- ==== Sys2Proof/Safety.lean ====
section
/-! DEFINITION. The terms of claims: a run that goes on, the invariant of the machine, and what
two states have in common (frames). -/

namespace Sys2Proof.Machine

/-! ### Runs -/

/-- The machine makes `n` steps from `s` and is then in `t`. -/
def Runs : Nat → State → State → Prop
  | 0, s, t => t = s
  | n + 1, s, t => ∃ u, step s = .next u ∧ Runs n u t

/-- No event at the boundary before the coming step: no reset, no parity error, no late bus error,
no interrupt, and the pc did not pass the top of the address space. -/
def Quiet (s : State) : Prop :=
  s.env.reset = none ∧ s.env.parityError = false ∧ s.wrapped = false ∧
    s.storeErrorDue = false ∧ s.interruptTaken = false

/-- The state after the debug conditions of the fetch at `pc` are posted (60_exceptions.md R236):
T is bit 5, PC bit 1, DB bit 0 of DCIC. -/
def State.fetchPosted (s : State) : State :=
  { s with
    dcic :=
      s.dcic ||| (if s.traceHit then 0x21#32 else 0#32) |||
        (if s.pcHit s.pc then 0x03#32 else 0#32) }

/-- The state after the debug condition of a data access at `ea` is posted (60_exceptions.md
R236): W is bit 4, R bit 3, DA bit 2, DB bit 0 of DCIC. -/
def State.accessPosted (s : State) (ea : Word) (store : Bool) : State :=
  { s with
    dcic :=
      if s.daHit ea store then s.dcic ||| (if store then 0x15#32 else 0x0D#32) else s.dcic }

/-- The fetch of the instruction at `pc` goes through (20_memory.md R60, R66): no address error,
no debug condition that traps, the platform answers without BERR, no byte of it was stored to. -/
def FetchGoes (s : State) : Prop :=
  s.addressError s.pc 4 = false ∧
    ((s.traceHit = false ∧ s.pcHit s.pc = false) ∨ s.debugTraps = false) ∧
    platformAnswers s.cfg s.pc.toNat 4 .fetch = true ∧ s.env.berrFetch = false ∧
    s.storedIn s.pc.toNat 4 = false

/-- Neither the coming fetch nor an exception taken there depends on bits of a CP0 write whose window is
open (70_reset_and_hazards.md R273). -/
def FetchSettled (s : State) : Prop :=
  s.unsettled State.fetchOutlook = false ∧ s.entryUnsettled = false

/-- Nor does the fetched word `w`. -/
def WordSettled (s : State) (w : Word) : Prop :=
  s.unsettled State.fetchOutlook = false ∧ s.fetchPosted.wordUnsettled w = false

/-- The windows of CP0 writes after an instruction that counts for them: each has one instruction fewer
left, and those it was the last of are gone (70_reset_and_hazards.md R273). -/
def countedWindows (l : List Cp0Change) : List Cp0Change :=
  (l.filter fun c => decide (2 ≤ c.left)).map fun c => { c with left := c.left - 1 }

/-- A data access of width `w` at `ea` passes the CPU's own checks (20_memory.md R62, steps 1 to
3): no address error, no cache isolation, no debug condition that traps. -/
def AccessPasses (s : State) (ea : Word) (w : Width) (store : Bool) : Prop :=
  s.addressError ea w.bytes = false ∧ s.isc = false ∧
    (s.daHit ea store = false ∨ s.debugTraps = false)

/-- The platform answers a data access without BERR (20_memory.md R61, R62 step 4). -/
def PlatformServes (s : State) (ea : Word) (w : Width) (k : AccessKind) : Prop :=
  platformAnswers s.cfg ea.toNat w.bytes k = true ∧ s.env.berrData = false

/-- External logic ends a data access with BERR: the platform answers it so, or does not admit it
and promises the BERR (20_memory.md R61). -/
def PlatformFails (s : State) (ea : Word) (w : Width) (k : AccessKind) : Prop :=
  (platformAnswers s.cfg ea.toNat w.bytes k = true ∧ s.env.berrData = true) ∨
    (platformAnswers s.cfg ea.toNat w.bytes k = false ∧
      berrPromised s.cfg ea.toNat w.bytes k = true)

/-- The platform neither admits the access nor promises a BERR for it (20_memory.md R61). -/
def PlatformSilent (s : State) (ea : Word) (w : Width) (k : AccessKind) : Prop :=
  platformAnswers s.cfg ea.toNat w.bytes k = false ∧
    berrPromised s.cfg ea.toNat w.bytes k = false

/-! ### The invariant -/

/-- What holds of the machine at reset and after every step: memory and the two sets of addresses
are in canonical form, x[0]'s slot holds zero, reserved bits of SR and DCIC (and TS)
are zero (10_state.md R23, R25, R39), the parameters are legal (60_exceptions.md R205), the
HI/LO distance is at most two (43_muldiv.md R168), so is what is left of the window of a CP0 write
(70_reset_and_hazards.md R273), x[0] has no load delay, an instruction in a
delay slot is reached sequentially, and the pc is a multiple of four but right after a taken
branch (10_state.md R14, 44_control_transfer.md R171). -/
structure State.Inv (s : State) : Prop where
  mem : s.mem.wf
  stored : addressesWf s.stored
  zero : s.regs[0] = 0#32
  sr : s.sr &&& ~~~srDefined = 0#32
  dcic : s.dcic &&& ~~~dcicDefined = 0#32
  cfg : Config.wf s.cfg
  guard : s.hiloGuard ≤ 2
  followers : addressesWf s.hiloFollowers
  window : ∀ c ∈ s.cp0Window, c.changed ≠ 0#32 ∧ 1 ≤ c.left ∧ c.left ≤ 2
  loadDelay : s.loadDelay ≠ some 0#5
  slot : s.delay ≠ .none → s.arrival = .sequential
  aligned : s.arrival = .target ∨ s.pc.extractLsb' 0 2 = 0#2

/-! ### Frames -/

/-- Every general register outside `l` reads the same. -/
def SameGprsBut (l : List Reg) (s t : State) : Prop := ∀ r, r ∉ l → t.gpr r = s.gpr r

/-- HI and LO are the same. -/
def SameHiLo (s t : State) : Prop := t.hi = s.hi ∧ t.lo = s.lo

/-- Every exception register is the same: SR, Cause, EPC, TAR, BadA. -/
def SameExceptionRegs (s t : State) : Prop :=
  t.sr = s.sr ∧ t.cause = s.cause ∧ t.epc = s.epc ∧ t.tar = s.tar ∧ t.badA = s.badA

/-- Every debug register is the same: BPC, BPCM, BDA, BDAM, DCIC. -/
def SameDebugRegs (s t : State) : Prop :=
  t.bpc = s.bpc ∧ t.bpcm = s.bpcm ∧ t.bda = s.bda ∧ t.bdam = s.bdam ∧ t.dcic = s.dcic

/-- Every byte of memory outside the `n` bytes at `a` reads the same, and so does the record of
what was written. -/
def SameMemoryBut (a n : Nat) (s t : State) : Prop :=
  ∀ x, ¬ (a ≤ x ∧ x < a + n) → t.mem.read x = s.mem.read x ∧ t.mem.recorded x = s.mem.recorded x

/-- Every byte of memory reads the same, and no byte counts as stored that did not. -/
def SameMemory (s t : State) : Prop :=
  (∀ x, t.mem.read x = s.mem.read x) ∧ t.mem = s.mem ∧ t.stored = s.stored

/-- What no instruction changes: the parameters, the environment's inputs, and the bus errors
still to come. -/
def SameOutside (s t : State) : Prop :=
  t.cfg = s.cfg ∧ t.env = s.env ∧ t.schedule = s.schedule ∧
    t.pendingStoreErrors = s.pendingStoreErrors

/-- Everything but the general registers in `l`, the pc and the machine's history is the same. -/
def SameBut (l : List Reg) (s t : State) : Prop :=
  SameGprsBut l s t ∧ SameHiLo s t ∧ SameExceptionRegs s t ∧ SameDebugRegs s t ∧
    SameMemory s t ∧ SameOutside s t

/-- Everything but HI, LO, the pc and the machine's history is the same. -/
def SameButHiLo (s t : State) : Prop :=
  SameGprsBut [] s t ∧ SameExceptionRegs s t ∧ SameDebugRegs s t ∧ SameMemory s t ∧
    SameOutside s t

/-- Everything but memory in the `n` bytes at `a`, the pc, the bus errors still to come and the
machine's history is the same; exactly those bytes newly count as stored to. -/
def SameButMemory (a n : Nat) (s t : State) : Prop :=
  SameGprsBut [] s t ∧ SameHiLo s t ∧ SameExceptionRegs s t ∧ SameDebugRegs s t ∧
    SameMemoryBut a n s t ∧ (∀ x, x ∈ t.stored ↔ x ∈ s.stored ∨ (a ≤ x ∧ x < a + n)) ∧
    t.cfg = s.cfg ∧ t.env = s.env ∧ t.schedule = s.schedule

/-- Execution goes on by the normal advance (10_state.md R13): `pc + 4`, or the target of the
taken branch in whose slot the instruction stood; the next instruction is in no delay slot, and
is reached as a branch's target in the second case only (60_exceptions.md R235). -/
def GoesOn (s t : State) : Prop :=
  t.pc = s.nextPc ∧ t.delay = .none ∧
    (∀ g, s.delay = .slot true g → t.arrival = .target) ∧
    ((∀ g, s.delay ≠ .slot true g) → t.arrival = .sequential)

/-- A branch was recorded (10_state.md R13): the next instruction is the one in its slot, and its
fetch is sequential (60_exceptions.md R235). -/
def Branched (taken : Bool) (target : Word) (s t : State) : Prop :=
  t.pc = s.pc + 4#32 ∧ t.delay = .slot taken target ∧ t.arrival = .sequential

/-- What register `r` reads after `v` is written to it (10_state.md R10, 70_reset_and_hazards.md
R270): zero for x[0], a free value if the instruction just before loaded `r`, else `v`. -/
def Written (s t : State) (r : Reg) (v : Word) : Prop :=
  t.gpr r = if r = 0#5 then 0#32
    else if s.loadDelay = some r then Config.undef 32 .writeGpr s.steps else v

/-! ### What instructions come to -/

/-- The exact value of a sum or difference is a signed 32-bit integer (42_arithmetic.md R139). -/
def FitsWord (n : Int) : Prop := -2 ^ 31 ≤ n ∧ n < 2 ^ 31

/-- The instruction at `pc` may write HI and LO (43_muldiv.md R168): it is within two instructions
after no MFHI or MFLO, as executed or as the program has them. -/
def HiLoWritable (s : State) : Prop := s.hiloGuard = 0 ∧ s.pc.toNat ∉ s.hiloFollowers

/-- Instruction `i` runs in `s`, writes `v` to register `r` and nothing else, and execution goes
on; the next instruction has no load delay. -/
def Results (i : Instr) (s : State) (r : Reg) (v : Word) : Prop :=
  ∃ t, exec i s = .next t ∧ Written s t r v ∧ SameBut [r] s t ∧ GoesOn s t ∧ t.loadDelay = none

/-- Instruction `i` runs in `s` and only records a branch decision (10_state.md R13). -/
def BranchesOnly (i : Instr) (s : State) (taken : Bool) (target : Word) : Prop :=
  ∃ t, exec i s = .next t ∧ Branched taken target s t ∧ SameBut [] s t ∧ t.loadDelay = none

/-- `t` is `s` after the entry of exception `e` through `vector` (60_exceptions.md R203, R238);
the free values are those of log entry 6. The last five fields say what is left of the history: the load
delay does not cross an entry (70_reset_and_hazards.md R270), the windows of CP0 writes stay with
their bits, but for the bits 5:0 of SR and a window left with none (R273, log entry 10), the handler's first fetch is the one
that `TRACE_ON_VECTOR` speaks of (R235), the HI/LO distance stays (43_muldiv.md R168, log entry 11),
and no wrap of the pc is left (log entry 13). -/
structure Entered (s t : State) (e : Exc) (vector : Word) : Prop where
  pc : t.pc = vector
  delay : t.delay = .none
  epc : t.epc = if s.delay = .none then s.pc else s.pc - 4#32
  bd : t.cause.bd = decide (s.delay ≠ .none)
  bt : ∀ taken g, s.delay = .slot taken g → t.cause.bt = taken
  btFree : s.delay = .none → t.cause.bt = (Config.undef 1 .causeBT s.steps).getLsbD 0
  tar : ∀ g, s.delay = .slot true g → t.tar = g
  tarFree : (∀ g, s.delay ≠ .slot true g) → t.tar = Config.undef 32 .tar s.steps
  code : t.cause.excCode = excCodeOf s.cfg e
  ce : ∀ z, e = .cpU z → t.cause.ce = z
  ceFree : (∀ z, e ≠ .cpU z) → t.cause.ce = Config.undef 2 .causeCE s.steps
  sw : t.cause.sw = s.cause.sw
  badA : ∀ a, e = .adEL a ∨ e = .adES a → t.badA = a
  badAKept : (∀ a, e ≠ .adEL a ∧ e ≠ .adES a) → t.badA = s.badA
  stack : t.sr.extractLsb' 0 6 = s.sr.extractLsb' 0 4 ++ 0#2
  srRest : t.sr.extractLsb' 6 26 = s.sr.extractLsb' 6 26
  hi : t.hi = if s.followerWritesHiLo then Config.undef 32 .hi s.steps else s.hi
  lo : t.lo = if s.followerWritesHiLo then Config.undef 32 .lo s.steps else s.lo
  gprs : SameGprsBut [] s t
  debug : SameDebugRegs s t
  memory : SameMemory s t
  outside : SameOutside s t
  loadDelay : t.loadDelay = none
  arrival : t.arrival = .vector
  hiloGuard : t.hiloGuard = s.hiloGuard ∧ t.hiloFollowers = s.hiloFollowers
  wrapped : t.wrapped = false
  window : t.cp0Window =
    (s.cp0Window.map fun c =>
      { c with changed := if c.reg = .sr then c.changed &&& 0xFFFFFFC0#32 else c.changed }).filter
        fun c => decide (c.changed ≠ 0#32)

end Sys2Proof.Machine
end

