-- ==== Sys2Proof/Certificates/Slice0/Obligations.lean ====
section
/-! DEFINITION. The statements for the provers. Each docstring names the rules of spec/ that its
statement formalises, and the log entries where it rests on a choice of the model. -/

open Sys2Proof Sys2Proof.Machine

/-! ### Decoding and encoding (30_encoding.md) -/

/-- R85: the decoder reads every instruction, with every value of every operand field, from the
word the encoder writes for it. -/
def Obligations.DecodeOfEncode : Prop :=
  ∀ i : Instr, decode (encode i) = .ok i

/-- R85: the only word that the decoder reads as an instruction is the one the encoder writes for
it, so no word is two instructions and no bit of a word is ignored. -/
def Obligations.EncodeOfDecode : Prop :=
  ∀ (w : Word) (i : Instr), decode w = .ok i → encode i = w

/-- R81, R91, 20_memory.md R54: in either byte order, decoding the bytes of an instruction gives it
back and leaves exactly the bytes after its four. -/
def Obligations.DecodeBytesOfEncode : Prop :=
  ∀ (bigEndian : Bool) (i : Instr) (rest : List Byte),
    decodeBytes bigEndian (wordBytes bigEndian (encode i) ++ rest) = .ok (i, rest)

/-- The worked example words of 40_loads_stores.md R106, R107, R109, 41_system_cp0.md R124, R126,
R128, 42_arithmetic.md R140, R150, 43_muldiv.md R160, 44_control_transfer.md R172, R176, R179. -/
def Obligations.ExampleWordsDecode : Prop :=
  decode 0x8C610000#32 = .ok (.lw 1 3 0) ∧ decode 0x84880002#32 = .ok (.lh 8 4 2) ∧
    decode 0xAFA10008#32 = .ok (.sw 1 29 8) ∧ decode 0x401A6800#32 = .ok (.mfc0 26 13) ∧
    decode 0x409B6000#32 = .ok (.mtc0 27 12) ∧ decode 0x42000010#32 = .ok .rfe ∧
    decode 0x01095020#32 = .ok (.add 10 8 9) ∧ decode 0x001AD3C0#32 = .ok (.sll 26 26 15) ∧
    decode 0x01090018#32 = .ok (.mult 8 9) ∧ decode 0x13600003#32 = .ok (.beq 27 0 3) ∧
    decode 0x0C000400#32 = .ok (.jal 0x400) ∧ decode 0x49000004#32 = .ok (.bc2f 4)

/-- R88, R89, 41_system_cp0.md R129, R120 (decisions D1, D26, log entry 22): a fetched word that is
no instruction of the table. A word of a coprocessor that is not usable raises CpU; otherwise a
reserved opcode raises RI; otherwise the word is refused. A step at such a word does just that,
where nothing depends on an open window (70_reset_and_hazards.md R273). The coprocessor is z for
the major operation code 16 + z (R120), and for 48 + z and 56 + z (R129; that z is the low two bits
there is the model's choice, log entry 22). -/
def Obligations.WordsOutsideTable : Prop :=
  (∀ (s : State) (w : Word) (e : DecodeError), decode w = .error e →
    (∀ z, coprocessorOf w = some z → s.usable z = false →
      meaning s w = .next (s.raise (.cpU z))) ∧
    ((∀ z, coprocessorOf w = some z → s.usable z = true) →
      (reservedOpcode s.cfg w = true → meaning s w = .next (s.raise .ri)) ∧
      (reservedOpcode s.cfg w = false →
        meaning s w = .refused (match coprocessorOf w with
          | some _ => .coprocessorWord
          | none => .wordOutsideTable)))) ∧
  (∀ (s : State) (w : Word) (e : DecodeError), Quiet s → FetchGoes s →
    w = s.mem.readWord s.cfg.bigEndian s.pc.toNat → decode w = .error e → WordSettled s w →
    (∀ t, meaning s.fetchPosted w = .next t → s.fetchPosted.entryUnsettled = false →
      step s = .next t.nextEnv) ∧
    (∀ x, meaning s.fetchPosted w = .refused x → step s = .refused x)) ∧
  ∀ (w : Word) (z : BitVec 2), coprocessorOf w = some z ↔
    w.toNat / 2 ^ 26 = 16 + z.toNat ∨ w.toNat / 2 ^ 26 = 48 + z.toNat ∨
      w.toNat / 2 ^ 26 = 56 + z.toNat

/-! ### Registers, memory (10_state.md, 20_memory.md) -/

/-- 10_state.md R10, and 70_reset_and_hazards.md R270 for a register the instruction just before
loaded (free value, log entry 9): what a register reads after a write to a register. -/
def Obligations.RegisterFile : Prop :=
  ∀ (s : State) (r q : Reg) (v : Word),
    (s.writeGpr r v).gpr q =
      if q = 0#5 then 0#32
      else if q = r then (if s.loadDelay = some r then Config.undef 32 .writeGpr s.steps else v)
      else s.gpr q

/-- R54: which byte of a word or halfword lies at which address, in each byte order. -/
def Obligations.ByteOrder : Prop :=
  ∀ (m : Memory) (a : Nat),
    (m.readWord true a).toNat = (m.read a).toNat * 2 ^ 24 + (m.read (a + 1)).toNat * 2 ^ 16 +
      (m.read (a + 2)).toNat * 2 ^ 8 + (m.read (a + 3)).toNat ∧
    (m.readWord false a).toNat = (m.read (a + 3)).toNat * 2 ^ 24 +
      (m.read (a + 2)).toNat * 2 ^ 16 + (m.read (a + 1)).toNat * 2 ^ 8 + (m.read a).toNat ∧
    (m.readHalf true a).toNat = (m.read a).toNat * 2 ^ 8 + (m.read (a + 1)).toNat ∧
    (m.readHalf false a).toNat = (m.read (a + 1)).toNat * 2 ^ 8 + (m.read a).toNat

/-- R55, R56, R63: a word or halfword reads back as it was written, in either byte order, and a
write changes no byte outside it. -/
def Obligations.MemoryReadsBack : Prop :=
  ∀ (m : Memory) (be : Bool) (a : Nat),
    (∀ v : Word, (m.writeBytes a (wordBytes be v)).readWord be a = v ∧
      ∀ x, ¬ (a ≤ x ∧ x < a + 4) → (m.writeBytes a (wordBytes be v)).read x = m.read x) ∧
    (∀ v : Half, (m.writeBytes a (halfBytes be v)).readHalf be a = v ∧
      ∀ x, ¬ (a ≤ x ∧ x < a + 2) → (m.writeBytes a (halfBytes be v)).read x = m.read x)

/-! ### Arithmetic, logic, shifts (42_arithmetic.md) -/

/-- R141, R143, R144, R145: the three-register instructions that raise nothing. -/
def Obligations.RegisterForms : Prop :=
  ∀ (s : State) (rd rs rt : Reg),
    Results (.addu rd rs rt) s rd (BitVec.ofNat 32 ((s.rsVal rs).toNat + (s.rtVal rt).toNat)) ∧
    Results (.subu rd rs rt) s rd
      (BitVec.ofInt 32 ((s.rsVal rs).toNat - (s.rtVal rt).toNat)) ∧
    Results (.and rd rs rt) s rd (s.rsVal rs &&& s.rtVal rt) ∧
    Results (.or rd rs rt) s rd (s.rsVal rs ||| s.rtVal rt)

/-- R147, R148, R149, R153: the immediate instructions that raise nothing. ADDIU sign-extends,
ANDI and ORI zero-extend. -/
def Obligations.ImmediateForms : Prop :=
  ∀ (s : State) (rt rs : Reg) (imm : Half),
    Results (.addiu rt rs imm) s rt (BitVec.ofInt 32 ((s.rsVal rs).toNat + imm.toInt)) ∧
    Results (.andi rt rs imm) s rt (s.rsVal rs &&& BitVec.ofNat 32 imm.toNat) ∧
    Results (.ori rt rs imm) s rt (s.rsVal rs ||| BitVec.ofNat 32 imm.toNat) ∧
    Results (.lui rt imm) s rt (BitVec.ofNat 32 (imm.toNat * 2 ^ 16))

/-- R150, R151, R152: the shifts; only the low five bits of the register amount count. -/
def Obligations.Shifts : Prop :=
  ∀ (s : State) (rd rt : Reg) (shamt rs : Reg),
    Results (.sll rd rt shamt) s rd
      (BitVec.ofNat 32 ((s.rtVal rt).toNat * 2 ^ shamt.toNat)) ∧
    Results (.srl rd rt shamt) s rd
      (BitVec.ofNat 32 ((s.rtVal rt).toNat / 2 ^ shamt.toNat)) ∧
    Results (.sllv rd rt rs) s rd
      (BitVec.ofNat 32 ((s.rtVal rt).toNat * 2 ^ ((s.rsVal rs).toNat % 32)))

/-- R140, R142, R146: ADD, SUB and ADDI write the exact result whenever it is a signed 32-bit
integer. -/
def Obligations.TrappingFormsComplete : Prop :=
  ∀ (s : State) (rd rs rt : Reg) (imm : Half),
    (FitsWord ((s.rsVal rs).toInt + (s.rtVal rt).toInt) →
      Results (.add rd rs rt) s rd
        (BitVec.ofInt 32 ((s.rsVal rs).toInt + (s.rtVal rt).toInt))) ∧
    (FitsWord ((s.rsVal rs).toInt - (s.rtVal rt).toInt) →
      Results (.sub rd rs rt) s rd
        (BitVec.ofInt 32 ((s.rsVal rs).toInt - (s.rtVal rt).toInt))) ∧
    (FitsWord ((s.rsVal rs).toInt + imm.toInt) →
      Results (.addi rt rs imm) s rt (BitVec.ofInt 32 ((s.rsVal rs).toInt + imm.toInt)))

/-- R139: the exact and the bit-level formulation of overflow agree; ADD, ADDI and SUB raise
Ovf exactly on overflow, whatever the state, and the entry writes no general register. -/
def Obligations.Overflow : Prop :=
  (∀ a b : Word,
    (¬ FitsWord (a.toInt + b.toInt) ↔ a.msb = b.msb ∧ (a + b).msb ≠ a.msb) ∧
    (¬ FitsWord (a.toInt - b.toInt) ↔ a.msb ≠ b.msb ∧ (a - b).msb ≠ a.msb)) ∧
  ∀ (s : State) (rd rs rt : Reg) (imm : Half),
    (exec (.add rd rs rt) s = .next (s.raise .ovf) ↔
      ¬ FitsWord ((s.rsVal rs).toInt + (s.rtVal rt).toInt)) ∧
    (exec (.sub rd rs rt) s = .next (s.raise .ovf) ↔
      ¬ FitsWord ((s.rsVal rs).toInt - (s.rtVal rt).toInt)) ∧
    (exec (.addi rt rs imm) s = .next (s.raise .ovf) ↔
      ¬ FitsWord ((s.rsVal rs).toInt + imm.toInt)) ∧
    ∀ r, (s.raise .ovf).gpr r = s.gpr r

/-! ### Multiply and divide (43_muldiv.md) -/

/-- R160, R161: MULT and MULTU put the exact product in HI and LO. -/
def Obligations.Multiply : Prop :=
  ∀ (s : State) (rs rt : Reg), HiLoWritable s →
    (∃ t, exec (.mult rs rt) s = .next t ∧
      (t.hi ++ t.lo).toInt = (s.rsVal rs).toInt * (s.rtVal rt).toInt ∧
      SameButHiLo s t ∧ GoesOn s t) ∧
    (∃ t, exec (.multu rs rt) s = .next t ∧
      (t.hi ++ t.lo).toNat = (s.rsVal rs).toNat * (s.rtVal rt).toNat ∧
      SameButHiLo s t ∧ GoesOn s t)

/-- R162, R163: DIV and DIVU put the quotient in LO and the remainder in HI; DIV rounds toward
zero. -/
def Obligations.Divide : Prop :=
  ∀ (s : State) (rs rt : Reg), HiLoWritable s → s.rtVal rt ≠ 0#32 →
    (¬ ((s.rsVal rs).toInt = -2 ^ 31 ∧ (s.rtVal rt).toInt = -1) →
      ∃ t, exec (.div rs rt) s = .next t ∧
        t.lo.toInt = (s.rsVal rs).toInt.tdiv (s.rtVal rt).toInt ∧
        t.hi.toInt = (s.rsVal rs).toInt - (s.rtVal rt).toInt * t.lo.toInt ∧
        SameButHiLo s t ∧ GoesOn s t) ∧
    (∃ t, exec (.divu rs rt) s = .next t ∧
      t.lo.toNat = (s.rsVal rs).toNat / (s.rtVal rt).toNat ∧
      t.hi.toNat = (s.rsVal rs).toNat % (s.rtVal rt).toNat ∧
      SameButHiLo s t ∧ GoesOn s t)

/-- R162, R163 (decision D35): a division whose result the spec leaves undefined raises nothing and
goes on; HI and LO hold free values (log entries 6, 26). -/
def Obligations.DivisionCorners : Prop :=
  ∀ (s : State) (rs rt : Reg), HiLoWritable s →
    (s.rtVal rt = 0#32 ∨ ((s.rsVal rs).toInt = -2 ^ 31 ∧ (s.rtVal rt).toInt = -1) →
      ∃ t, exec (.div rs rt) s = .next t ∧ t.hi = Config.undef 32 .hi s.steps ∧
        t.lo = Config.undef 32 .lo s.steps ∧ SameButHiLo s t ∧ GoesOn s t) ∧
    (s.rtVal rt = 0#32 →
      ∃ t, exec (.divu rs rt) s = .next t ∧ t.hi = Config.undef 32 .hi s.steps ∧
        t.lo = Config.undef 32 .lo s.steps ∧ SameButHiLo s t ∧ GoesOn s t)

/-- R164 to R167: the moves from and to HI and LO. -/
def Obligations.HiLoMoves : Prop :=
  ∀ (s : State) (r : Reg),
    Results (.mfhi r) s r s.hi ∧ Results (.mflo r) s r s.lo ∧
    (HiLoWritable s →
      (∃ t, exec (.mthi r) s = .next t ∧ t.hi = s.rsVal r ∧ t.lo = s.lo ∧ SameButHiLo s t ∧
        GoesOn s t) ∧
      (∃ t, exec (.mtlo r) s = .next t ∧ t.lo = s.rsVal r ∧ t.hi = s.hi ∧ SameButHiLo s t ∧
        GoesOn s t))

/-- R168 point 2 (decision D34, log entry 11): the six writers of HI and LO are refused within two
instructions after MFHI or MFLO, counted as the instructions executed, and at the addresses of the
two instructions after an MFHI or MFLO of the program. An instruction that is aborted by its
exception does not count, and its entry keeps both. -/
def Obligations.HiLoDistance : Prop :=
  (∀ (s : State) (rs rt : Reg), ¬ HiLoWritable s →
    ∀ i ∈ [Instr.mult rs rt, .multu rs rt, .div rs rt, .divu rs rt, .mthi rs, .mtlo rs],
      exec i s = .refused .hiloReorganization) ∧
  ∀ (i : Instr) (s t : State), exec i s = .next t →
    (t.arrival = .vector → t.hiloGuard = s.hiloGuard ∧ t.hiloFollowers = s.hiloFollowers) ∧
    (t.arrival ≠ .vector →
      (t.hiloGuard = match i with
        | .mfhi _ => 2
        | .mflo _ => 2
        | _ => s.hiloGuard - 1) ∧
      ∀ x, x ∈ t.hiloFollowers ↔ x ∈ s.hiloFollowers ∨
        ((∃ rd, i = .mfhi rd ∨ i = .mflo rd) ∧
          (x = s.nextPc.toNat ∨ x = (s.nextPc + 4#32).toNat)))

/-- R168 point 2 (decision D34, log entry 11), over runs: once an MFHI or MFLO has executed, a writer
of HI or LO that stands in one of the two places after it is refused, whatever steps (exception
entries, handlers and returns among them) lie between. -/
def Obligations.HiLoDistanceOverRuns : Prop :=
  ∀ (n : Nat) (i : Instr) (s t u : State) (rd rs rt : Reg), i ∈ [Instr.mfhi rd, .mflo rd] →
    exec i s = .next t → Runs n t.nextEnv u →
    (u.pc = s.nextPc ∨ u.pc = s.nextPc + 4#32) →
    ∀ j ∈ [Instr.mult rs rt, .multu rs rt, .div rs rt, .divu rs rt, .mthi rs, .mtlo rs],
      exec j u = .refused .hiloReorganization

/-! ### Loads and stores (40_loads_stores.md, 20_memory.md R62) -/

/-- R106, R107, R108, R105: a load whose checks pass and which the platform serves reads the word,
the sign-extended or the zero-extended halfword at its effective address; the register must not
be read by the next instruction (70_reset_and_hazards.md R270). The effective address of every load
and store is the base plus the signed displacement (R105, 30_encoding.md R84). -/
def Obligations.LoadsComplete : Prop :=
  (∀ (s : State) (rs : Reg) (imm : Half), s.effectiveAddress rs imm =
    BitVec.ofInt 32 ((s.rsVal rs).toNat + imm.toInt)) ∧
  ∀ (s : State) (rt rs : Reg) (imm : Half),
    ∀ p ∈ [(Instr.lw rt rs imm, Width.word,
        s.mem.readWord s.cfg.bigEndian (s.effectiveAddress rs imm).toNat),
      (.lh rt rs imm, .half,
        (s.mem.readHalf s.cfg.bigEndian (s.effectiveAddress rs imm).toNat).signExtend 32),
      (.lhu rt rs imm, .half,
        (s.mem.readHalf s.cfg.bigEndian (s.effectiveAddress rs imm).toNat).setWidth 32)],
    AccessPasses s (s.effectiveAddress rs imm) p.2.1 false →
    PlatformServes s (s.effectiveAddress rs imm) p.2.1 .load →
    ∃ t, exec p.1 s = .next t ∧ Written s t rt p.2.2 ∧
      SameBut [rt] (s.accessPosted (s.effectiveAddress rs imm) false) t ∧ GoesOn s t ∧
      t.loadDelay = if rt = 0#5 then none else some rt

/-- R109, R110, R105: a store whose checks pass and which the platform serves puts the register, or
its low half, at its effective address, and touches no other byte (no two addresses name one
byte: decision D22, log entry 8). -/
def Obligations.StoresComplete : Prop :=
  ∀ (s : State) (rt rs : Reg) (imm : Half),
    (AccessPasses s (s.effectiveAddress rs imm) .word true →
      PlatformServes s (s.effectiveAddress rs imm) .word .store →
      ∃ t, exec (.sw rt rs imm) s = .next t ∧
        t.mem.readWord s.cfg.bigEndian (s.effectiveAddress rs imm).toNat = s.rtVal rt ∧
        SameButMemory (s.effectiveAddress rs imm).toNat 4
          (s.accessPosted (s.effectiveAddress rs imm) true) t ∧
        t.pendingStoreErrors = s.pendingStoreErrors ∧ GoesOn s t) ∧
    (AccessPasses s (s.effectiveAddress rs imm) .half true →
      PlatformServes s (s.effectiveAddress rs imm) .half .store →
      ∃ t, exec (.sh rt rs imm) s = .next t ∧
        t.mem.readHalf s.cfg.bigEndian (s.effectiveAddress rs imm).toNat =
          (s.rtVal rt).extractLsb' 0 16 ∧
        SameButMemory (s.effectiveAddress rs imm).toNat 2
          (s.accessPosted (s.effectiveAddress rs imm) true) t ∧
        t.pendingStoreErrors = s.pendingStoreErrors ∧ GoesOn s t)

/-- 60_exceptions.md R217 (decision D23, log entry 19): a store whose transaction ends in BERR
completes as an instruction; its bytes hold free values and one more bus error is to come. -/
def Obligations.FailedStores : Prop :=
  ∀ (s : State) (rt rs : Reg) (imm : Half),
    ∀ p ∈ [(Instr.sw rt rs imm, Width.word), (.sh rt rs imm, .half)],
    AccessPasses s (s.effectiveAddress rs imm) p.2 true →
    PlatformFails s (s.effectiveAddress rs imm) p.2 .store →
    ∃ t, exec p.1 s = .next t ∧
      (∀ i, i < p.2.bytes → t.mem.read ((s.effectiveAddress rs imm).toNat + i) =
        Config.undef 8 (.storeByte i) s.steps) ∧
      SameButMemory (s.effectiveAddress rs imm).toNat p.2.bytes
        (s.accessPosted (s.effectiveAddress rs imm) true) t ∧
      t.pendingStoreErrors = s.pendingStoreErrors + 1 ∧ GoesOn s t

/-- 20_memory.md R62, R61, 60_exceptions.md R216, R234, R236 (decisions D6, D29, D23; log entries 15, 16,
19): where loads and stores do not complete, in the order of the checks. The cache is isolated by
bit 16 of SR (10_state.md R26), and bit 31 of DCIC makes a debug condition trap (R37, R236). -/
def Obligations.AccessStops : Prop :=
  (∀ s : State, s.isc = s.sr.getLsbD 16 ∧ s.debugTraps = s.dcic.getLsbD 31) ∧
  ∀ (s : State) (rt rs : Reg) (imm : Half),
    ∀ p ∈ [(Instr.lw rt rs imm, Width.word, false), (.lh rt rs imm, .half, false),
      (.lhu rt rs imm, .half, false), (.sw rt rs imm, .word, true),
      (.sh rt rs imm, .half, true)],
    (s.addressError (s.effectiveAddress rs imm) p.2.1.bytes = true →
      exec p.1 s = .next (s.raise (if p.2.2 then .adES (s.effectiveAddress rs imm)
        else .adEL (s.effectiveAddress rs imm)))) ∧
    (s.addressError (s.effectiveAddress rs imm) p.2.1.bytes = false → s.isc = true →
      exec p.1 s = .refused .cacheIsolated) ∧
    (s.addressError (s.effectiveAddress rs imm) p.2.1.bytes = false → s.isc = false →
      s.daHit (s.effectiveAddress rs imm) p.2.2 = true → s.debugTraps = true →
      exec p.1 s =
        .next (s.accessPosted (s.effectiveAddress rs imm) p.2.2).raiseDebug) ∧
    (AccessPasses s (s.effectiveAddress rs imm) p.2.1 p.2.2 → p.2.2 = false →
      PlatformFails s (s.effectiveAddress rs imm) p.2.1 .load →
      exec p.1 s =
        .next ((s.accessPosted (s.effectiveAddress rs imm) p.2.2).raise .dbe)) ∧
    (AccessPasses s (s.effectiveAddress rs imm) p.2.1 p.2.2 →
      PlatformSilent s (s.effectiveAddress rs imm) p.2.1
        (if p.2.2 then .store else .load) →
      exec p.1 s = .fault .stuckAccess)

/-- 60_exceptions.md R213 and 20_memory.md R57: the condition of an address error, the exception it
raises at a fetch, a load and a store, the address in BadA, and that nothing is accessed. That it comes
before a debug condition of the same access is decision D6 (log entry 16), and what the entry leaves
of the HI/LO distance, the windows of CP0 writes and the wrap of the pc is the model's reading (log
entries 10, 11, 13). -/
def Obligations.AddressErrors : Prop :=
  (∀ (s : State) (a : Word) (n : Nat), s.addressError a n = true ↔
    a.toNat % n ≠ 0 ∨ (s.sr.getLsbD 1 = true ∧ a.getLsbD 31 = true)) ∧
  (∀ s : State, Quiet s → FetchSettled s → s.addressError s.pc 4 = true →
    ∃ t : State, step s = .next t.nextEnv ∧ Entered s t (.adEL s.pc) s.generalVector) ∧
  ∀ (s : State) (rt rs : Reg) (imm : Half),
    (∀ p ∈ [(Instr.lw rt rs imm, 4), (.lh rt rs imm, 2), (.lhu rt rs imm, 2)],
      s.addressError (s.effectiveAddress rs imm) p.2 = true →
      ∃ t, exec p.1 s = .next t ∧
        Entered s t (.adEL (s.effectiveAddress rs imm)) s.generalVector) ∧
    (∀ p ∈ [(Instr.sw rt rs imm, 4), (.sh rt rs imm, 2)],
      s.addressError (s.effectiveAddress rs imm) p.2 = true →
      ∃ t, exec p.1 s = .next t ∧
        Entered s t (.adES (s.effectiveAddress rs imm)) s.generalVector)

/-- 70_reset_and_hazards.md R270 (decision D18, log entry 9): a load, or an MFC0 of a register that
exists, that goes on without an exception delays its register, but x[0], for exactly one
instruction; every other instruction delays none. A delayed register reads as a free value, any
other as itself. -/
def Obligations.LoadDelay : Prop :=
  (∀ (s t : State) (rt rs : Reg) (imm : Half),
    ∀ i ∈ [Instr.lw rt rs imm, .lh rt rs imm, .lhu rt rs imm] ++
      [3#5, 5#5, 6#5, 7#5, 8#5, 9#5, 11#5, 12#5, 13#5, 14#5, 15#5].map (Instr.mfc0 rt),
    exec i s = .next t → t.arrival ≠ .vector →
    t.loadDelay = if rt = 0#5 then none else some rt) ∧
  (∀ (i : Instr) (s t : State), exec i s = .next t → t.loadDelay ≠ none →
    ∃ r, r ≠ 0#5 ∧ t.loadDelay = some r ∧ ((∃ rs imm, i = .lw r rs imm) ∨
      (∃ rs imm, i = .lh r rs imm) ∨ (∃ rs imm, i = .lhu r rs imm) ∨ ∃ rd, i = .mfc0 r rd)) ∧
  ∀ (s : State) (r : Reg),
    (s.loadDelay = some r → s.rsVal r = Config.undef 32 .readRs s.steps ∧
      s.rtVal r = Config.undef 32 .readRt s.steps) ∧
    (s.loadDelay ≠ some r → s.rsVal r = s.gpr r ∧ s.rtVal r = s.gpr r)

/-! ### Control transfer (44_control_transfer.md) -/

/-- R172, R173, R174: the conditional branches. The target is the address of the delay slot plus
four times the signed offset. -/
def Obligations.ConditionalBranches : Prop :=
  ∀ (s : State) (rs rt : Reg) (imm : Half), s.delay = .none →
    BranchesOnly (.beq rs rt imm) s (decide (s.rsVal rs = s.rtVal rt))
      (BitVec.ofInt 32 (s.pc.toNat + 4 + 4 * imm.toInt)) ∧
    BranchesOnly (.bne rs rt imm) s (decide (s.rsVal rs ≠ s.rtVal rt))
      (BitVec.ofInt 32 (s.pc.toNat + 4 + 4 * imm.toInt)) ∧
    BranchesOnly (.bgez rs imm) s (decide (0 ≤ (s.rsVal rs).toInt))
      (BitVec.ofInt 32 (s.pc.toNat + 4 + 4 * imm.toInt))

/-- R175, R176, R177, R178: the jumps; JAL and JALR link to the address after the delay slot, and
JALR reads its target before it links. -/
def Obligations.Jumps : Prop :=
  ∀ (s : State) (target : BitVec 26) (rd rs : Reg), s.delay = .none →
    BranchesOnly (.j target) s true
      (BitVec.ofNat 32 ((s.pc + 4#32).toNat / 2 ^ 28 * 2 ^ 28 + target.toNat * 4)) ∧
    BranchesOnly (.jr rs) s true (s.rsVal rs) ∧
    (∃ t, exec (.jal target) s = .next t ∧
      Branched true (BitVec.ofNat 32 ((s.pc + 4#32).toNat / 2 ^ 28 * 2 ^ 28 + target.toNat * 4))
        s t ∧
      Written s t 31#5 (s.pc + 8#32) ∧ SameBut [31#5] s t) ∧
    (rd ≠ rs → ∃ t, exec (.jalr rd rs) s = .next t ∧ Branched true (s.rsVal rs) s t ∧
      Written s t rd (s.pc + 8#32) ∧ SameBut [rd] s t)

/-- R179, R180: the coprocessor branches test the input CPC[z], 1 for true (decision D30, log entry
31). -/
def Obligations.CoprocessorBranches : Prop :=
  ∀ (s : State) (imm : Half), s.delay = .none →
    ∀ p ∈ [(Instr.bc0f imm, 0#2, false), (.bc0t imm, 0#2, true), (.bc1f imm, 1#2, false),
      (.bc1t imm, 1#2, true), (.bc2f imm, 2#2, false), (.bc2t imm, 2#2, true),
      (.bc3f imm, 3#2, false), (.bc3t imm, 3#2, true)],
    s.usable p.2.1 = true →
      BranchesOnly p.1 s (decide (s.env.cpc.getLsbD p.2.1.toNat = p.2.2))
        (BitVec.ofInt 32 (s.pc.toNat + 4 + 4 * imm.toInt))

/-- 41_system_cp0.md R120: the usability formula; an unusable coprocessor's branch raises CpU (in a
delay slot too), and MFC0, MTC0 and RFE raise RI where CP0 is not usable. -/
def Obligations.CoprocessorUsability : Prop :=
  ∀ s : State,
    (∀ z, s.usable z = true ↔
      s.sr.getLsbD (28 + z.toNat) = true ∨ (z = 0#2 ∧ s.sr.getLsbD 1 = false)) ∧
    (∀ (imm : Half), ∀ p ∈ [(Instr.bc0f imm, 0#2), (.bc0t imm, 0#2), (.bc1f imm, 1#2),
      (.bc1t imm, 1#2), (.bc2f imm, 2#2), (.bc2t imm, 2#2), (.bc3f imm, 3#2),
      (.bc3t imm, 3#2)],
      s.usable p.2 = false → exec p.1 s = .next (s.raise (.cpU p.2))) ∧
    (∀ rt rd : Reg, ∀ i ∈ [Instr.mfc0 rt rd, .mtc0 rt rd, .rfe],
      s.usable 0#2 = false → exec i s = .next (s.raise .ri))

/-- R170, R182, 10_state.md R13: every instruction that goes on in a delay slot either takes an
exception that restarts at the branch, with BD set and BT and TAR telling the branch's decision,
or continues at the target if the branch was taken and after the slot if not. -/
def Obligations.DelaySlots : Prop :=
  ∀ (i : Instr) (s t : State) (taken : Bool) (g : Word), s.delay = .slot taken g →
    exec i s = .next t → t.delay = .none ∧
    ((t.arrival = .vector ∧ t.epc = s.pc - 4#32 ∧ t.cause.bd = true ∧ t.cause.bt = taken ∧
        (taken = true → t.tar = g) ∧ (t.pc = s.generalVector ∨ t.pc = s.debugVector)) ∨
      (t.arrival = (if taken then .target else .sequential) ∧
        t.pc = if taken then g else s.pc + 4#32))

/-- 10_state.md R13, R178, 70_reset_and_hazards.md R271 (decision D5, log entry 12): a branch or jump
in a delay slot is refused (a coprocessor branch if its coprocessor is usable), and JALR with
rd = rs always. -/
def Obligations.RefusedTransfers : Prop :=
  ∀ (s : State) (rd rs rt : Reg) (imm : Half) (target : BitVec 26),
    exec (.jalr rs rs) s = .refused .jalrSameRegister ∧
    ∀ (taken : Bool) (g : Word), s.delay = .slot taken g →
      (∀ i ∈ [Instr.beq rs rt imm, .bne rs rt imm, .bgez rs imm, .j target, .jal target, .jr rs],
        exec i s = .refused .branchInDelaySlot) ∧
      (rd ≠ rs → exec (.jalr rd rs) s = .refused .branchInDelaySlot) ∧
      (∀ p ∈ [(Instr.bc0f imm, 0#2), (.bc0t imm, 0#2), (.bc1f imm, 1#2), (.bc1t imm, 1#2),
        (.bc2f imm, 2#2), (.bc2t imm, 2#2), (.bc3f imm, 3#2), (.bc3t imm, 3#2)],
        s.usable p.2 = true → exec p.1 s = .refused .branchInDelaySlot)

/-! ### System instructions and CP0 (41_system_cp0.md, 10_state.md) -/

/-- R121, R122: SYSCALL and BREAK take their exceptions through the general vector, in any mode and
whatever their code field. -/
def Obligations.SyscallAndBreak : Prop :=
  ∀ (s : State) (code : BitVec 20),
    (∃ t, exec (.syscall code) s = .next t ∧ Entered s t .sys s.generalVector) ∧
    (∃ t, exec (.brk code) s = .next t ∧ Entered s t .bp s.generalVector)

/-- R124, R125, 10_state.md R32, R36: what MFC0 reads from each implemented register; the register
must not be read by the next instruction (70_reset_and_hazards.md R270). Cause.IP shows the pins
whether or not INTMASK is asserted (decision D24, log entry 23), bits that do not exist read as
zero (log entry 30). -/
def Obligations.MoveFromCp0 : Prop :=
  ∀ (s : State) (rt : Reg), s.usable 0#2 = true →
    ∀ p ∈ [(3#5, s.bpc), (5#5, s.bda), (6#5, s.tar), (7#5, s.dcic &&& 0xFF80003F#32),
      (8#5, s.badA), (9#5, s.bdam), (11#5, s.bpcm), (12#5, s.sr &&& 0xF055FF3F#32),
      (13#5, BitVec.ofBool s.cause.bd ++ BitVec.ofBool s.cause.bt ++ s.cause.ce ++ 0#12 ++
        s.env.int ++ s.cause.sw ++ 0#2 ++ s.cause.excCode ++ 0#2),
      (14#5, s.epc),
      (15#5, 0#16 ++ (match s.cfg.part with
        | .lr33300 => 0x0A#8
        | .lr33310 => 0x0B#8) ++ s.cfg.rev)],
    ∃ t, exec (.mfc0 rt p.1) s = .next t ∧ Written s t rt p.2 ∧ SameBut [rt] s t ∧ GoesOn s t ∧
      t.loadDelay = if rt = 0#5 then none else some rt

/-- R126, R127 (decisions D8, D9, D10; log entries 10, 18): what MTC0 writes to each implemented
register, and that it changes nothing else; the bits it changed must not be depended on for the next
`CP0_WRITE_LATENCY` instructions (70_reset_and_hazards.md R273, decision D19). -/
def Obligations.MoveToCp0 : Prop :=
  (∀ (s t : State) (rt n : Reg) (r : Cp0Reg), cp0Number n = .reg r → s.usable 0#2 = true →
    exec (.mtc0 rt n) s = .next t →
    t.cp0Window = (if t.readCp0 r = s.readCp0 r ∨ s.cfg.cp0WriteLatency = 0 then []
      else [⟨r, s.readCp0 r ^^^ t.readCp0 r, false, s.cfg.cp0WriteLatency⟩]) ++
        countedWindows s.cp0Window) ∧
  ∀ (s : State) (rt : Reg), s.usable 0#2 = true →
    ∀ p ∈ [(3#5, { s with bpc := s.rtVal rt }), (5#5, { s with bda := s.rtVal rt }), (6#5, s),
      (7#5, { s with dcic := s.rtVal rt &&& 0xFF80003F#32 }), (8#5, s),
      (9#5, { s with bdam := s.rtVal rt }), (11#5, { s with bpcm := s.rtVal rt }),
      (12#5, { s with
        sr := ((s.sr &&& ~~~0xF045FF3F#32) ||| (s.rtVal rt &&& 0xF045FF3F#32)) &&&
          ~~~(s.rtVal rt &&& 0x00100000#32) }),
      (13#5, { s with cause := { s.cause with sw := (s.rtVal rt).extractLsb' 8 2 } }),
      (14#5, { s with epc := if s.cfg.epcWritable then s.rtVal rt else s.epc }), (15#5, s)],
    ∃ t, exec (.mtc0 rt p.1) s = .next t ∧ SameBut [] p.2 t ∧ GoesOn s t ∧ t.loadDelay = none

/-- R123, R124, R126 (decision D11, log entry 18): the CP0 register numbers that do not exist raise
RI, the unused ones are NOPs. -/
def Obligations.OtherCp0Numbers : Prop :=
  ∀ (s : State) (rt rd : Reg), s.usable 0#2 = true →
    (rd ∈ [0#5, 1#5, 2#5, 4#5, 10#5] → exec (.mfc0 rt rd) s = .next (s.raise .ri) ∧
      exec (.mtc0 rt rd) s = .next (s.raise .ri)) ∧
    (16 ≤ rd.toNat → ∀ i ∈ [Instr.mfc0 rt rd, .mtc0 rt rd],
      ∃ t, exec i s = .next t ∧ SameBut [] s t ∧ GoesOn s t ∧ t.loadDelay = none)

/-- 10_state.md R29, whole: each bit of SR after MTC0 to register 12, and what a read of SR returns
in any state. The reserved bits and TS are zero in SR before the write (`State.Inv`) and stay
zero. -/
def Obligations.StatusWrite : Prop :=
  (∀ (s : State) (rt : Reg), s.usable 0#2 = true → s.sr &&& 0x0FAA00C0#32 = 0#32 →
    ∃ t, exec (.mtc0 rt 12) s = .next t ∧
      (∀ i, 28 ≤ i ∧ i ≤ 31 ∨ i = 22 ∨ i = 18 ∨ i = 16 ∨ 8 ≤ i ∧ i ≤ 15 ∨ i ≤ 5 →
        t.sr.getLsbD i = (s.rtVal rt).getLsbD i) ∧
      t.sr.getLsbD 20 = (if (s.rtVal rt).getLsbD 20 then false else s.sr.getLsbD 20) ∧
      (∀ i, 23 ≤ i ∧ i ≤ 27 ∨ i = 21 ∨ i = 19 ∨ i = 17 ∨ i = 6 ∨ i = 7 →
        t.sr.getLsbD i = false) ∧
      t.sr = ((s.sr &&& ~~~0xF045FF3F#32) ||| (s.rtVal rt &&& 0xF045FF3F#32)) &&&
        ~~~(s.rtVal rt &&& 0x00100000#32)) ∧
  ∀ (u : State) (r : Reg), u.usable 0#2 = true →
    ∃ v, exec (.mfc0 r 12) u = .next v ∧ Written u v r (u.sr &&& ~~~0x0FAA00C0#32)

/-- 10_state.md R39, whole: MTC0 to register 7 writes the bits 31:23 and 5:0 of DCIC, the status bits
among them, and leaves 22:6 zero; in any state a read returns all 32 bits, 22:6 zero. -/
def Obligations.DcicWrite : Prop :=
  (∀ (s : State) (rt : Reg), s.usable 0#2 = true →
    ∃ t, exec (.mtc0 rt 7) s = .next t ∧ t.dcic = s.rtVal rt &&& 0xFF80003F#32 ∧
      (∀ i, i ≤ 5 ∨ 23 ≤ i → t.dcic.getLsbD i = (s.rtVal rt).getLsbD i) ∧
      (∀ i, 6 ≤ i ∧ i ≤ 22 → t.dcic.getLsbD i = false)) ∧
  ∀ (u : State) (r : Reg), u.usable 0#2 = true →
    ∃ v, exec (.mfc0 r 7) u = .next v ∧ Written u v r (u.dcic &&& 0xFF80003F#32)

/-- R128: RFE pops the Status stack, changes no other bit of SR and nothing else, and does not
jump. The bits it changed must not be depended on for the next `CP0_WRITE_LATENCY` instructions, but
after the return jump in whose slot it stands (70_reset_and_hazards.md R273, decision D19, log entry
10). -/
def Obligations.RestoreFromException : Prop :=
  ∀ s : State, s.usable 0#2 = true →
    ∃ t, exec .rfe s = .next t ∧ t.sr.extractLsb' 0 4 = s.sr.extractLsb' 2 4 ∧
      t.sr.extractLsb' 4 28 = s.sr.extractLsb' 4 28 ∧ SameBut [] { s with sr := t.sr } t ∧
      GoesOn s t ∧ t.loadDelay = none ∧
      t.cp0Window =
        (if t.sr = s.sr ∨ s.cfg.cp0WriteLatency = 0 ∨ s.delay.taken = true then []
          else [⟨.sr, s.sr ^^^ t.sr, true, s.cfg.cp0WriteLatency⟩]) ++
            countedWindows s.cp0Window

/-- 70_reset_and_hazards.md R272 (its CP0 row), R273, R274 (decision D19; log entry 10 for what counts
as a dependence): what depends on a CP0 write whose window is open is refused, the fetch first, then
the word, then an exception entry; an instruction but MTC0 and RFE opens no window and counts for
the open ones. What depends on a change of SR, written out for one open window: a usability test, a
reference with bit 31 set after a change of KUc, MFC0 of SR, RFE and an entry after an MTC0 of the
stack bits, an entry after a change of BEV; and MFC0 of a breakpoint register. And what is not refused:
anything at all with no window open; an instruction that neither accesses memory nor belongs to a
coprocessor; a fetch, an entry and a data access that only other registers' windows are open at. -/
def Obligations.Cp0WriteWindow : Prop :=
  (∀ s : State, Quiet s →
    (s.unsettled State.fetchOutlook = true → step s = .refused .cp0WriteWindow) ∧
    (s.unsettled State.fetchOutlook = false → s.entryUnsettled = true →
      (s.addressError s.pc 4 = true ∨ (s.addressError s.pc 4 = false ∧
        (((s.traceHit = true ∨ s.pcHit s.pc = true) ∧ s.debugTraps = true) ∨
          (((s.traceHit = false ∧ s.pcHit s.pc = false) ∨ s.debugTraps = false) ∧
            ((platformAnswers s.cfg s.pc.toNat 4 .fetch = false ∧
                berrPromised s.cfg s.pc.toNat 4 .fetch = true) ∨
              (platformAnswers s.cfg s.pc.toNat 4 .fetch = true ∧
                s.env.berrFetch = true)))))) →
      step s = .refused .cp0WriteWindow) ∧
    (s.unsettled State.fetchOutlook = false → FetchGoes s →
      ∀ w, w = s.mem.readWord s.cfg.bigEndian s.pc.toNat →
      (s.fetchPosted.wordUnsettled w = true → step s = .refused .cp0WriteWindow) ∧
      (s.fetchPosted.wordUnsettled w = false → s.fetchPosted.entryUnsettled = true →
        ∀ t, meaning s.fetchPosted w = .next t → t.arrival = .vector →
          step s = .refused .cp0WriteWindow))) ∧
  (∀ (i : Instr) (s t : State), (∀ rt rd, i ≠ .mtc0 rt rd) → i ≠ .rfe → exec i s = .next t →
    t.arrival ≠ .vector → t.cp0Window = countedWindows s.cp0Window) ∧
  (∀ (s : State) (m : Word) (p : Bool) (n : Nat), s.cp0Window = [⟨.sr, m, p, n⟩] →
    (∀ imm : Half, ∀ q ∈ [(Instr.bc1f imm, 29), (.bc1t imm, 29), (.bc2f imm, 30),
      (.bc2t imm, 30), (.bc3f imm, 31), (.bc3t imm, 31)],
      s.instrUnsettled q.1 = m.getLsbD q.2) ∧
    (∀ (rt rs : Reg) (imm : Half), m.getLsbD 1 = true →
      (s.effectiveAddress rs imm).getLsbD 31 = true →
      ∀ q ∈ [(Instr.lw rt rs imm, 4), (.sw rt rs imm, 4), (.lh rt rs imm, 2),
        (.lhu rt rs imm, 2), (.sh rt rs imm, 2)],
        (s.effectiveAddress rs imm).toNat % q.2 = 0 → s.instrUnsettled q.1 = true) ∧
    (m.getLsbD 1 = true → s.pc.getLsbD 31 = true → s.pc.toNat % 4 = 0 →
      s.unsettled State.fetchOutlook = true) ∧
    (∀ rt : Reg, s.sr.getLsbD 1 = false → m.getLsbD 1 = false →
      (s.instrUnsettled (.mfc0 rt 12) = true ↔ m &&& 0xF055FF3F#32 ≠ 0#32)) ∧
    (p = false → m &&& 0x3C#32 ≠ 0#32 → s.instrUnsettled .rfe = true) ∧
    (m.getLsbD 22 = true ∨ (p = false ∧ m &&& 0x0F#32 ≠ 0#32) → s.entryUnsettled = true)) ∧
  (∀ (s : State) (rt : Reg) (m : Word) (n : Nat), s.usable 0#2 = true → m ≠ 0#32 →
    ∀ q ∈ [(3#5, Cp0Reg.bpc), (5#5, .bda), (9#5, .bdam), (11#5, .bpcm)],
      s.cp0Window = [⟨q.2, m, false, n⟩] → s.instrUnsettled (.mfc0 rt q.1) = true) ∧
  (∀ s : State, s.cp0Window = [] → FetchSettled s ∧ s.fetchPosted.entryUnsettled = false ∧
    ∀ w, WordSettled s w) ∧
  (∀ (s : State) (i : Instr), s.instrUnsettled i = true →
    (∃ (rt rs : Reg) (imm : Half), i ∈ [Instr.lw rt rs imm, .lh rt rs imm, .lhu rt rs imm,
        .sw rt rs imm, .sh rt rs imm]) ∨
      (∃ rt rd : Reg, i ∈ [Instr.mfc0 rt rd, .mtc0 rt rd, .rfe]) ∨
      ∃ imm : Half, i ∈ [Instr.bc0f imm, .bc0t imm, .bc1f imm, .bc1t imm, .bc2f imm, .bc2t imm,
        .bc3f imm, .bc3t imm]) ∧
  ∀ s : State,
    ((∀ c ∈ s.cp0Window, c.reg ∉ [Cp0Reg.sr, .dcic, .bpc, .bpcm]) → FetchSettled s) ∧
    ((∀ c ∈ s.cp0Window, c.reg ∉ [Cp0Reg.sr, .dcic, .bda, .bdam]) →
      ∀ (rt rs : Reg) (imm : Half), ∀ i ∈ [Instr.lw rt rs imm, .lh rt rs imm, .lhu rt rs imm,
        .sw rt rs imm, .sh rt rs imm], s.instrUnsettled i = false)

/-- 60_exceptions.md R242: JR with RFE in its delay slot goes on at the address the register held, in
the mode and with the interrupt enable of the previous level. -/
def Obligations.ReturnSequence : Prop :=
  ∀ (s : State) (rs : Reg), s.delay = .none → s.usable 0#2 = true →
    ∃ t u, exec (.jr rs) s = .next t ∧ t.pc = s.pc + 4#32 ∧ t.sr = s.sr ∧
      exec .rfe t = .next u ∧ u.pc = s.rsVal rs ∧ u.delay = .none ∧ u.arrival = .target ∧
      u.kuc = s.sr.getLsbD 3 ∧ u.iec = s.sr.getLsbD 2

/-! ### Exceptions (60_exceptions.md) -/

/-- R203, R205, R210, R238 (log entries 6, 11 for the free values): everything the entry of an
exception does, general and debug. It also ends the load delay (70_reset_and_hazards.md R270) and
makes the coming fetch the one of R235's `TRACE_ON_VECTOR`; that it keeps the HI/LO distance and the
windows of CP0 writes and ends the wrap of the pc is the model's reading (log entries 10, 11, 13).
The codes are those the parameter gives the ten kinds, all different and zero for Int (R205); the
default numbers are the family's (log entry 2). -/
def Obligations.ExceptionEntry : Prop :=
  (∀ (s : State) (e : Exc),
    Entered s (s.raise e) e s.generalVector ∧ Entered s s.raiseDebug .bp s.debugVector) ∧
  ∀ (c : Config) (a b : Word) (z : BitVec 2),
    let kinds := [Exc.int, .adEL a, .adES b, .ibe, .dbe, .sys, .bp, .ri, .cpU z, .ovf]
    (Config.wf c → (kinds.map (excCodeOf c)).Nodup ∧ excCodeOf c .int = 0#4) ∧
    kinds.map (excCodeOf c) = [c.excCodes.int, c.excCodes.adEL, c.excCodes.adES, c.excCodes.ibe,
      c.excCodes.dbe, c.excCodes.sys, c.excCodes.bp, c.excCodes.ri, c.excCodes.cpU,
      c.excCodes.ovf] ∧
    kinds.map (excCodeOf defaultConfig) = [0#4, 4#4, 5#4, 6#4, 7#4, 8#4, 9#4, 10#4, 11#4, 12#4]

/-- R204, whole: the Status stack push of every exception entry, its example, that RFE is its inverse
on the current and previous pairs, and that two levels of entries keep the current pair. -/
def Obligations.StatusPush : Prop :=
  (∀ (s t : State), (∃ e, t = s.raise e) ∨ t = s.raiseDebug →
    t.sr.getLsbD 5 = s.sr.getLsbD 3 ∧ t.sr.getLsbD 4 = s.sr.getLsbD 2 ∧
    t.sr.getLsbD 3 = s.sr.getLsbD 1 ∧ t.sr.getLsbD 2 = s.sr.getLsbD 0 ∧
    t.sr.getLsbD 1 = false ∧ t.sr.getLsbD 0 = false ∧
    t.sr.extractLsb' 0 6 = s.sr.extractLsb' 0 4 ++ 0#2 ∧
    t.sr.extractLsb' 6 26 = s.sr.extractLsb' 6 26 ∧
    t.popStatusStack.sr.extractLsb' 0 4 = s.sr.extractLsb' 0 4 ∧
    ∀ u : State, (∃ e, u = t.raise e) ∨ u = t.raiseDebug →
      u.popStatusStack.popStatusStack.sr.extractLsb' 0 2 = s.sr.extractLsb' 0 2) ∧
  pushStatus 0x0000FF13#32 = 0x0000FF0C#32

/-- 10_state.md R24, whole (and R206): the vectors that BEV selects, read at the entry; reset goes to
its own vector whatever BEV is, and sets BEV; a handler starts in kernel mode. -/
def Obligations.Vectors : Prop :=
  ∀ (s : State) (e : Exc) (ev : ResetEvent),
    (s.resetBy ev).pc = 0xBFC00000#32 ∧ (s.resetBy ev).sr.getLsbD 22 = true ∧
    (s.sr.getLsbD 22 = false →
      (s.raise e).pc = 0x80000080#32 ∧ s.raiseDebug.pc = 0x80000040#32) ∧
    (s.sr.getLsbD 22 = true →
      (s.raise e).pc = 0xBFC00180#32 ∧ s.raiseDebug.pc = 0xBFC00140#32) ∧
    (s.raise e).sr.getLsbD 1 = false ∧ s.raiseDebug.sr.getLsbD 1 = false

/-- R202, 43_muldiv.md R168 point 1 (decision D34, log entry 11): HI and LO are free values after an
entry, general or debug, exactly when the instruction at the pc that would have come next is one of
the six writers. -/
def Obligations.HiLoAtEntry : Prop :=
  ∀ (s : State) (e : Exc) (i : Instr), s.nextPc.toNat % 4 = 0 →
    s.mem.readWord s.cfg.bigEndian s.nextPc.toNat = encode i →
    ((∃ rs rt, i ∈ [Instr.mult rs rt, .multu rs rt, .div rs rt, .divu rs rt, .mthi rs,
        .mtlo rs]) →
      ∀ t ∈ [s.raise e, s.raiseDebug], t.hi = Config.undef 32 .hi s.steps ∧
        t.lo = Config.undef 32 .lo s.steps) ∧
    ((∀ rs rt, i ∉ [Instr.mult rs rt, .multu rs rt, .div rs rt, .divu rs rt, .mthi rs,
        .mtlo rs]) →
      ∀ t ∈ [s.raise e, s.raiseDebug], t.hi = s.hi ∧ t.lo = s.lo)

/-- R226, whole (and R227): when an interrupt is pending, source by source, whatever the privilege mode;
and none is in a state an exception entry leaves. -/
def Obligations.InterruptCondition : Prop :=
  ∀ s : State,
    (s.interruptPending = true ↔ s.sr.getLsbD 0 = true ∧
      ((∃ i, i < 6 ∧ s.env.intMask = false ∧ s.env.int.getLsbD i = true ∧
          s.sr.getLsbD (10 + i) = true) ∨
        ∃ i, i < 2 ∧ s.cause.sw.getLsbD i = true ∧ s.sr.getLsbD (8 + i) = true)) ∧
    (∀ e, (s.raise e).interruptPending = false) ∧ s.raiseDebug.interruptPending = false

/-- R228, R217 (decisions D7, D23; log entries 5, 19, 21): what happens at a boundary before the
fetch. A store's bus error that arrives raises DBE whatever IEc and the masks; otherwise an
interrupt that the environment lets through raises Int. -/
def Obligations.AsynchronousEntries : Prop :=
  ∀ s : State, s.env.reset = none → s.env.parityError = false → s.wrapped = false →
    (s.pendingStoreErrors ≠ 0 → s.env.deliverStoreError = true →
      ∃ t : State, step s = .next t.nextEnv ∧
        Entered { s with pendingStoreErrors := s.pendingStoreErrors - 1 } t .dbe
          s.generalVector) ∧
    (s.pendingStoreErrors = 0 ∨ s.env.deliverStoreError = false →
      s.interruptPending = true → s.env.takeInterrupt = true →
      ∃ t : State, step s = .next t.nextEnv ∧ Entered s t .int s.generalVector)

/-- R228's liveness law and R217's finite delay (log entries 4, 5, 19 for their form): what the
environment defers it defers for at most as many steps as its schedule has. After more steps than
that no event is left, a bus error still owed is taken in the coming step, and so is an interrupt
that is pending then, unless the bus error comes first (log entry 21). -/
def Obligations.DeferralEnds : Prop :=
  ∀ (n : Nat) (s t : State), s.schedule.length < n → Runs n s t →
    t.schedule = [] ∧ t.env.reset = none ∧ t.env.parityError = false ∧
    (t.wrapped = false →
      (t.pendingStoreErrors ≠ 0 →
        ∃ u : State, step t = .next u.nextEnv ∧
          Entered { t with pendingStoreErrors := t.pendingStoreErrors - 1 } u .dbe
            t.generalVector) ∧
      (t.pendingStoreErrors = 0 → t.interruptPending = true →
        ∃ u : State, step t = .next u.nextEnv ∧ Entered t u .int t.generalVector))

/-! ### Debug facility (60_exceptions.md) -/

/-- R232, R233, R234, R235 (decisions D12, D13, D15): the conditions that are detected, and the bit that makes
them trap (R236). -/
def Obligations.DebugConditions : Prop :=
  ∀ (s : State) (a : Word) (store : Bool),
    (s.debugOn = true ↔ s.dcic.getLsbD 23 = true ∧
      ((s.sr.getLsbD 1 = true ∧ s.dcic.getLsbD 30 = true) ∨
        (s.sr.getLsbD 1 = false ∧ s.dcic.getLsbD 29 = true))) ∧
    (s.pcHit a = true ↔ s.debugOn = true ∧ s.dcic.getLsbD 24 = true ∧
      ∀ i, s.bpcm.getLsbD i = true → a.getLsbD i = s.bpc.getLsbD i) ∧
    (s.daHit a store = true ↔ s.debugOn = true ∧ s.dcic.getLsbD 25 = true ∧
      (∀ i, s.bdam.getLsbD i = true → a.getLsbD i = s.bda.getLsbD i) ∧
      ((store = false ∧ s.dcic.getLsbD 26 = true) ∨
        (store = true ∧ s.dcic.getLsbD 27 = true))) ∧
    (s.traceHit = true ↔ s.debugOn = true ∧ s.dcic.getLsbD 28 = true ∧
      (s.arrival = .target ∨ (s.arrival = .vector ∧ s.cfg.traceOnVector = true))) ∧
    s.debugTraps = s.dcic.getLsbD 31

/-- R236, R238, 20_memory.md R60 step 2 (decisions D12, D14, log entry 17): a fetch that hits with TR
set posts its status bits and takes the debug exception; the instruction is not executed. -/
def Obligations.FetchDebugTrap : Prop :=
  ∀ s : State, Quiet s → FetchSettled s → s.addressError s.pc 4 = false →
    (s.traceHit = true ∨ s.pcHit s.pc = true) → s.debugTraps = true →
    ∃ t : State, step s = .next t.nextEnv ∧ Entered s.fetchPosted t .bp s.debugVector

/-! ### The step -/

/-- 30_encoding.md R86, 20_memory.md R59, R60: where nothing happens at the boundary and the fetch goes
through, a step is the execution of the instruction that the word at pc decodes to, from the
state with the fetch's debug conditions posted; then the environment moves on. Nothing may depend
on an open window (70_reset_and_hazards.md R273), which `Cp0WriteWindow` is about. -/
def Obligations.StepRunsInstruction : Prop :=
  ∀ (s : State) (i : Instr), Quiet s → FetchGoes s →
    decode (s.mem.readWord s.cfg.bigEndian s.pc.toNat) = .ok i →
    WordSettled s (s.mem.readWord s.cfg.bigEndian s.pc.toNat) →
    (∀ t, exec i s.fetchPosted = .next t →
      (t.arrival = .vector → s.fetchPosted.entryUnsettled = false) → step s = .next t.nextEnv) ∧
    (∀ f, exec i s.fetchPosted = .fault f → step s = .fault f) ∧
    (∀ x, exec i s.fetchPosted = .refused x → step s = .refused x)

/-- 20_memory.md R60 step 3, R61, R66, 60_exceptions.md R216, 10_state.md R13 (decisions D21, D23; log
entries 13, 14, 19): where a fetch does not go through after its CPU checks passed; and that the
fetch which follows the word at 0xFFFFFFFC in sequence is the one refused as past the top. -/
def Obligations.FetchStops : Prop :=
  (∀ (i : Instr) (s t : State), exec i s = .next t → t.arrival ≠ .vector → s.pc.toNat % 4 = 0 →
    (t.wrapped = true ↔ s.pc = 0xFFFFFFFC#32 ∧ ∀ g, s.delay ≠ .slot true g)) ∧
  (∀ (s : State) (a n : Nat), s.storedIn a n = true ↔ ∃ x ∈ s.stored, a ≤ x ∧ x < a + n) ∧
  ∀ s : State, s.env.reset = none → s.env.parityError = false →
    (s.wrapped = true → step s = .refused .fetchPastTop) ∧
    (s.wrapped = false → s.storeErrorDue = false → s.interruptTaken = false → FetchSettled s →
      s.addressError s.pc 4 = false →
      ((s.traceHit = false ∧ s.pcHit s.pc = false) ∨ s.debugTraps = false) →
      (platformAnswers s.cfg s.pc.toNat 4 .fetch = false →
        berrPromised s.cfg s.pc.toNat 4 .fetch = true →
        step s = .next (s.fetchPosted.raise .ibe).nextEnv) ∧
      (platformAnswers s.cfg s.pc.toNat 4 .fetch = false →
        berrPromised s.cfg s.pc.toNat 4 .fetch = false → step s = .fault .stuckAccess) ∧
      (platformAnswers s.cfg s.pc.toNat 4 .fetch = true → s.env.berrFetch = true →
        step s = .next (s.fetchPosted.raise .ibe).nextEnv) ∧
      (platformAnswers s.cfg s.pc.toNat 4 .fetch = true → s.env.berrFetch = false →
        s.storedIn s.pc.toNat 4 = true → step s = .refused .fetchOfStoredByte))

/-- 10_state.md R25 (decision D28; log entry 27 for the moment): a step at which a parity error is
detected is the step from the state with SR.PE set and no parity error. -/
def Obligations.ParityError : Prop :=
  ∀ s : State, s.env.reset = none → s.env.parityError = true →
    step s = step { s with
      sr := s.sr ||| 0x00100000#32
      env := { s.env with parityError := false } }

/-- 10_state.md R43, 70_reset_and_hazards.md R260, R261 (log entries 6, 20): what a reset event leaves,
cold and warm: a free value in every register R43 calls undefined. The
bytes that count as stored to and the addresses after an MFHI or MFLO still do (20_memory.md R66, 43_muldiv.md R168; log entries 11, 14), every other
hazard ends, and the store errors still owed stay or go as the environment says (log entry 20). -/
def Obligations.ResetEvents : Prop :=
  ∀ (s : State) (ev : ResetEvent), s.env.reset = some ev →
    ∃ t : State, step s = .next t.nextEnv ∧ t.pc = 0xBFC00000#32 ∧ t.delay = .none ∧
      t.sr = 0x00400000#32 ∧
      t.cause = { bd := false, bt := false, ce := 0#2, sw := 0#2, excCode := 0#4 } ∧
      t.dcic = 0#32 ∧ t.bpcm = 0xFFFFFFFF#32 ∧ t.bdam = 0xFFFFFFFF#32 ∧ t.gpr 0#5 = 0#32 ∧
      (∀ r, r ≠ 0#5 → t.gpr r = Config.undef 32 (.gpr r.toNat) s.steps) ∧
      t.hi = Config.undef 32 .hi s.steps ∧ t.lo = Config.undef 32 .lo s.steps ∧
      t.badA = Config.undef 32 .badA s.steps ∧
      (ev.kind = .warm → t.epc = s.epc ∧ t.tar = s.tar ∧ t.bpc = s.bpc ∧ t.bda = s.bda) ∧
      (ev.kind = .cold → t.epc = Config.undef 32 .epc s.steps ∧
        t.tar = Config.undef 32 .tar s.steps ∧ t.bpc = Config.undef 32 .bpc s.steps ∧
        t.bda = Config.undef 32 .bda s.steps) ∧
      t.mem = Memory.ofCells ev.memory ∧ t.stored = s.stored ∧ t.cfg = s.cfg ∧
      t.loadDelay = none ∧ t.arrival = .sequential ∧ t.wrapped = false ∧ t.hiloGuard = 0 ∧
      t.hiloFollowers = s.hiloFollowers ∧ t.cp0Window = [] ∧
      t.pendingStoreErrors = if ev.storesComplete then s.pendingStoreErrors else 0

/-- 10_state.md R43: the values the spec states for the state after a (cold) reset, in
`State.reset`. -/
def Obligations.ResetState : Prop :=
  State.reset.pc = 0xBFC00000#32 ∧ State.reset.delay = .none ∧ State.reset.sr = 0x00400000#32 ∧
    State.reset.causeWord = 0#32 ∧ State.reset.dcic = 0#32 ∧
    State.reset.bpcm = 0xFFFFFFFF#32 ∧ State.reset.bdam = 0xFFFFFFFF#32 ∧
    State.reset.kuc = false ∧ State.reset.iec = false ∧ State.reset.gpr 0#5 = 0#32

/-! ### The whole machine -/

/-- The invariant holds at reset. The reset values of the parameters and of the history fields are
the model's choice (log entries 2, 3, 7). -/
def Obligations.InvariantAtReset : Prop := State.reset.Inv

/-- Every step keeps the invariant: memory and the two sets of addresses in canonical form, x[0]
zero (10_state.md R10), reserved bits of SR and DCIC and TS zero (R23, R25, R39), pc a multiple of
four but right after a taken branch (R14, 44_control_transfer.md R171). The history fields and their
bounds are the model's (log entries 9, 11, 14). -/
def Obligations.InvariantKept : Prop :=
  ∀ s t : State, s.Inv → step s = .next t → t.Inv

/-- 00_scope.md R5, R7 (log entries 2, 4, 5, 19): no step changes the implementation's parameters, and the
environment's inputs move on by one step whatever the machine does. -/
def Obligations.OutsideUnchanged : Prop :=
  ∀ s t : State, step s = .next t →
    t.cfg = s.cfg ∧ t.schedule = s.schedule.tail ∧
      t.env = s.schedule.head?.getD
        { s.env with
          reset := none
          parityError := false
          berrFetch := false
          berrData := false
          takeInterrupt := true
          deliverStoreError := true }

/-- 20_memory.md R51, 60_exceptions.md R241: no step in user mode, but a reset, changes a byte of
memory at a kernel-mode address (no two addresses name one byte: decision D22, log entry 8). -/
def Obligations.KernelMemoryProtected : Prop :=
  ∀ s t : State, s.sr.getLsbD 1 = true → s.env.reset = none → step s = .next t →
    ∀ a, 2 ^ 31 ≤ a → t.mem.recorded a = s.mem.recorded a ∧ t.mem.read a = s.mem.read a

/-- 60_exceptions.md R240, R241: in user mode with CP0 not marked usable, a step, but a reset, leaves
the breakpoint registers alone, and of SR changes at most PE, unless it enters an exception: then
it is in kernel mode with interrupts disabled at one of the two vectors, the bits of SR above
the Status stack, but PE, as before. -/
def Obligations.UserModeConfined : Prop :=
  ∀ s t : State, s.sr.getLsbD 1 = true → s.sr.getLsbD 28 = false → s.env.reset = none →
    step s = .next t →
    t.bpc = s.bpc ∧ t.bpcm = s.bpcm ∧ t.bda = s.bda ∧ t.bdam = s.bdam ∧
    (∀ i, 6 ≤ i → i ≠ 20 → t.sr.getLsbD i = s.sr.getLsbD i) ∧
    ((t.sr.extractLsb' 0 6 = s.sr.extractLsb' 0 6 ∧ t.cause = s.cause ∧ t.epc = s.epc ∧
        t.tar = s.tar ∧ t.badA = s.badA) ∨
      (t.kuc = false ∧ t.iec = false ∧ t.delay = .none ∧
        (t.pc = s.generalVector ∨ t.pc = s.debugVector) ∧
        t.sr.extractLsb' 0 6 = s.sr.extractLsb' 0 4 ++ 0#2))

/-- 40_loads_stores.md R103: whether load scheduling is enabled changes nothing else about a step. -/
def Obligations.LoadSchedulingInvisible : Prop :=
  ∀ (s : State) (b : Bool),
    step { s with cfg := { s.cfg with ldsch := b } } =
      match step s with
      | .next t => .next { t with cfg := { t.cfg with ldsch := b } }
      | .fault f => .fault f
      | .refused x => .refused x
end

