-- ==== Sys2Proof/Laws/Cp0.lean ====
section
/-! SUPPORT. The bits of SR after a push, a pop and a write, and the masks of the bits that exist
(10_state.md R21, R29, R39; 60_exceptions.md R204; 41_system_cp0.md R128). -/

namespace Sys2Proof.Machine

/-- Each bit after the Status stack push. -/
theorem pushStatus_bit (sr : Word) (i : Nat) : (pushStatus sr).getLsbD i =
    if i < 2 then false else if i < 6 then sr.getLsbD (i - 2) else sr.getLsbD i := by
  unfold pushStatus
  rw [BitVec.getLsbD_append, BitVec.getLsbD_append]
  simp only [BitVec.getLsbD_extractLsb', BitVec.getLsbD_zero]
  by_cases h1 : i < 2
  · simp [h1]
  · by_cases h2 : i < 6
    · have : i - 2 < 4 := by omega
      simp [h1, h2, this]
    · have : ¬ i - 2 < 4 := by omega
      have h3 : 6 + (i - 2 - 4) = i := by omega
      simp [h1, h2, this, h3]
      intro h
      by_contra hc
      exact absurd (BitVec.lt_of_getLsbD h) (by omega)

/-- Each bit after the Status stack pop. -/
theorem popStatus_bit (sr : Word) (i : Nat) : (popStatus sr).getLsbD i =
    if i < 4 then sr.getLsbD (i + 2) else sr.getLsbD i := by
  unfold popStatus
  rw [BitVec.getLsbD_append]
  simp only [BitVec.getLsbD_extractLsb']
  by_cases h1 : i < 4
  · simp [h1, Nat.add_comm]
  · have h3 : 4 + (i - 4) = i := by omega
    simp [h1, h3]
    intro h
    by_contra hc
    exact absurd (BitVec.lt_of_getLsbD h) (by omega)

/-- A word has no bit outside a mask exactly when each of its bits lies in the mask. -/
theorem outside_mask_eq_zero {w m : Word} :
    w &&& ~~~m = 0#32 ↔ ∀ i, w.getLsbD i = true → m.getLsbD i = true := by
  constructor
  · intro h i hw
    have := congrArg (·.getLsbD i) h
    have hi := BitVec.lt_of_getLsbD hw
    simpa [hw, hi] using this
  · intro h
    apply BitVec.eq_of_getLsbD_eq
    intro i hi
    cases hw : w.getLsbD i
    · simp [hw]
    · simp [hw, h i hw]

/-- The six bits of the Status stack exist. -/
theorem srDefined_low (i : Nat) (h : i < 6) : srDefined.getLsbD i = true := by
  have : ∀ j : Fin 6, srDefined.getLsbD j = true := by decide
  exact this ⟨i, h⟩

/-- A push sets no reserved bit. -/
theorem pushStatus_keeps {sr : Word} (h : sr &&& ~~~srDefined = 0#32) :
    pushStatus sr &&& ~~~srDefined = 0#32 := by
  rw [outside_mask_eq_zero] at *
  intro i hi
  rw [pushStatus_bit] at hi
  by_cases h6 : i < 6
  · exact srDefined_low i h6
  · exact h i (by simpa [h6, show ¬ i < 2 by omega] using hi)

/-- A pop sets no reserved bit. -/
theorem popStatus_keeps {sr : Word} (h : sr &&& ~~~srDefined = 0#32) :
    popStatus sr &&& ~~~srDefined = 0#32 := by
  rw [outside_mask_eq_zero] at *
  intro i hi
  rw [popStatus_bit] at hi
  by_cases h4 : i < 4
  · exact srDefined_low i (by omega)
  · exact h i (by simpa [h4] using hi)

/-- A write to SR sets no reserved bit. -/
theorem writeSr_keeps {sr : Word} (v : Word) (h : sr &&& ~~~srDefined = 0#32) :
    writeSr sr v &&& ~~~srDefined = 0#32 := by
  have hm : srWriteMask &&& ~~~srDefined = 0#32 := by decide
  rw [outside_mask_eq_zero] at *
  intro i hi
  simp only [writeSr, BitVec.getLsbD_and, BitVec.getLsbD_or, Bool.and_eq_true, Bool.or_eq_true] at hi
  rcases hi.1 with hi | hi
  · exact h i hi.1
  · exact hm i hi.2

/-- Joining words inside a mask stays inside it. -/
theorem or_keeps {a b m : Word} (ha : a &&& ~~~m = 0#32) (hb : b &&& ~~~m = 0#32) :
    (a ||| b) &&& ~~~m = 0#32 := by
  rw [outside_mask_eq_zero] at *
  intro i hi
  simp only [BitVec.getLsbD_or, Bool.or_eq_true] at hi
  exact hi.elim (ha i) (hb i)

/-- A masked word is inside the mask. -/
theorem and_mask_keeps (v m : Word) : (v &&& m) &&& ~~~m = 0#32 := by
  rw [outside_mask_eq_zero]
  intro i hi
  simp only [BitVec.getLsbD_and, Bool.and_eq_true] at hi
  exact hi.2

end Sys2Proof.Machine
end

