-- ==== Sys2Proof/Laws/Encode.lean ====
section
/-! SUPPORT. The encoder's formats and the decoder's fields as numbers, and each field of each
format (30_encoding.md R82, R83). -/

namespace Sys2Proof

/-! ### Formats and fields as numbers -/

theorem toNat_append_eq {n m : Nat} (x : BitVec n) (y : BitVec m) :
    (x ++ y).toNat = x.toNat * 2 ^ m + y.toNat := by
  rw [BitVec.toNat_append, ← Nat.shiftLeft_add_eq_or_of_lt y.isLt, Nat.shiftLeft_eq]

theorem encodeR_toNat (op : BitVec 6) (rs rt rd sh : Reg) (f : BitVec 6) :
    (encodeR op rs rt rd sh f).toNat =
      ((((op.toNat * 32 + rs.toNat) * 32 + rt.toNat) * 32 + rd.toNat) * 32 + sh.toNat) * 64 +
        f.toNat := by
  simp only [encodeR, toNat_append_eq, Nat.reducePow]

theorem encodeI_toNat (op : BitVec 6) (rs rt : Reg) (imm : Half) :
    (encodeI op rs rt imm).toNat =
      ((op.toNat * 32 + rs.toNat) * 32 + rt.toNat) * 65536 + imm.toNat := by
  simp only [encodeI, toNat_append_eq, Nat.reducePow]

theorem encodeJ_toNat (op : BitVec 6) (target : BitVec 26) :
    (encodeJ op target).toNat = op.toNat * 67108864 + target.toNat := by
  simp only [encodeJ, toNat_append_eq, Nat.reducePow]

theorem encodeBrk_toNat (code : BitVec 20) (f : BitVec 6) :
    (encodeBrk code f).toNat = code.toNat * 64 + f.toNat := by
  simp only [encodeBrk, toNat_append_eq, Nat.reducePow, BitVec.toNat_ofNat, Nat.zero_mod,
    Nat.zero_mul, Nat.zero_add]

/-- A field of a word is a quotient and a remainder. -/
theorem extract_toNat (w : Word) (lo len : Nat) :
    (w.extractLsb' lo len).toNat = w.toNat / 2 ^ lo % 2 ^ len := by
  simp [BitVec.extractLsb'_toNat, Nat.shiftRight_eq_div_pow]

/-! ### Fields of the R format -/

variable (op f : BitVec 6) (rs rt rd sh : Reg) (imm : Half)

@[simp] theorem opField_encodeR : opField (encodeR op rs rt rd sh f) = op := by
  apply BitVec.eq_of_toNat_eq; rw [opField, extract_toNat, encodeR_toNat]; omega
@[simp] theorem rsField_encodeR : rsField (encodeR op rs rt rd sh f) = rs := by
  apply BitVec.eq_of_toNat_eq; rw [rsField, extract_toNat, encodeR_toNat]; omega
@[simp] theorem rtField_encodeR : rtField (encodeR op rs rt rd sh f) = rt := by
  apply BitVec.eq_of_toNat_eq; rw [rtField, extract_toNat, encodeR_toNat]; omega
@[simp] theorem rdField_encodeR : rdField (encodeR op rs rt rd sh f) = rd := by
  apply BitVec.eq_of_toNat_eq; rw [rdField, extract_toNat, encodeR_toNat]; omega
@[simp] theorem shamtField_encodeR : shamtField (encodeR op rs rt rd sh f) = sh := by
  apply BitVec.eq_of_toNat_eq; rw [shamtField, extract_toNat, encodeR_toNat]; omega
@[simp] theorem functField_encodeR : functField (encodeR op rs rt rd sh f) = f := by
  apply BitVec.eq_of_toNat_eq; rw [functField, extract_toNat, encodeR_toNat]; omega

/-! ### Fields of the I format (the CP-br format has the same shape) -/

@[simp] theorem opField_encodeI : opField (encodeI op rs rt imm) = op := by
  apply BitVec.eq_of_toNat_eq; rw [opField, extract_toNat, encodeI_toNat]; omega
@[simp] theorem rsField_encodeI : rsField (encodeI op rs rt imm) = rs := by
  apply BitVec.eq_of_toNat_eq; rw [rsField, extract_toNat, encodeI_toNat]; omega
@[simp] theorem rtField_encodeI : rtField (encodeI op rs rt imm) = rt := by
  apply BitVec.eq_of_toNat_eq; rw [rtField, extract_toNat, encodeI_toNat]; omega
@[simp] theorem immField_encodeI : immField (encodeI op rs rt imm) = imm := by
  apply BitVec.eq_of_toNat_eq; rw [immField, extract_toNat, encodeI_toNat]; omega

/-! ### Fields of the J and BRK formats -/

@[simp] theorem opField_encodeJ (target : BitVec 26) : opField (encodeJ op target) = op := by
  apply BitVec.eq_of_toNat_eq; rw [opField, extract_toNat, encodeJ_toNat]; omega
@[simp] theorem targetField_encodeJ (target : BitVec 26) :
    targetField (encodeJ op target) = target := by
  apply BitVec.eq_of_toNat_eq; rw [targetField, extract_toNat, encodeJ_toNat]; omega
@[simp] theorem opField_encodeBrk (code : BitVec 20) : opField (encodeBrk code f) = 0#6 := by
  apply BitVec.eq_of_toNat_eq; rw [opField, extract_toNat, encodeBrk_toNat]
  simp; omega
@[simp] theorem functField_encodeBrk (code : BitVec 20) : functField (encodeBrk code f) = f := by
  apply BitVec.eq_of_toNat_eq; rw [functField, extract_toNat, encodeBrk_toNat]; omega
@[simp] theorem codeField_encodeBrk (code : BitVec 20) : codeField (encodeBrk code f) = code := by
  apply BitVec.eq_of_toNat_eq; rw [codeField, extract_toNat, encodeBrk_toNat]; omega

/-! ### Masking a format, field by field -/

theorem encodeR_and (a a' f f' : BitVec 6) (b b' c c' d d' e e' : Reg) :
    encodeR a b c d e f &&& encodeR a' b' c' d' e' f' =
      encodeR (a &&& a') (b &&& b') (c &&& c') (d &&& d') (e &&& e') (f &&& f') := by
  unfold encodeR
  repeat rw [BitVec.and_append]

theorem encodeI_and (a a' : BitVec 6) (b b' c c' : Reg) (d d' : Half) :
    encodeI a b c d &&& encodeI a' b' c' d' =
      encodeI (a &&& a') (b &&& b') (c &&& c') (d &&& d') := by
  unfold encodeI
  repeat rw [BitVec.and_append]

theorem encodeJ_and (a a' : BitVec 6) (b b' : BitVec 26) :
    encodeJ a b &&& encodeJ a' b' = encodeJ (a &&& a') (b &&& b') := by
  unfold encodeJ
  rw [BitVec.and_append]

theorem encodeBrk_and (a a' : BitVec 20) (f f' : BitVec 6) :
    encodeBrk a f &&& (0x3F#6 ++ a' ++ f') = encodeBrk (a &&& a') (f &&& f') := by
  unfold encodeBrk
  rw [BitVec.and_append, BitVec.and_append, BitVec.zero_and]

/-! ### A word is its fields -/

/-- A word is the R format of its fields. -/
theorem encodeR_fields (w : Word) : encodeR (opField w) (rsField w) (rtField w) (rdField w)
    (shamtField w) (functField w) = w := by
  apply BitVec.eq_of_toNat_eq
  rw [encodeR_toNat]
  simp only [opField, rsField, rtField, rdField, shamtField, functField, extract_toNat]
  omega

/-- A word is the I format of its fields. -/
theorem encodeI_fields (w : Word) :
    encodeI (opField w) (rsField w) (rtField w) (immField w) = w := by
  apply BitVec.eq_of_toNat_eq
  rw [encodeI_toNat]
  simp only [opField, rsField, rtField, immField, extract_toNat]
  omega

/-- A word is the J format of its fields. -/
theorem encodeJ_fields (w : Word) : encodeJ (opField w) (targetField w) = w := by
  apply BitVec.eq_of_toNat_eq
  rw [encodeJ_toNat]
  simp only [opField, targetField, extract_toNat]
  omega

/-- A word of major operation code 0 is the BRK format of its fields. -/
theorem encodeBrk_fields (w : Word) (h : opField w = 0#6) :
    encodeBrk (codeField w) (functField w) = w := by
  apply BitVec.eq_of_toNat_eq
  have h' : (opField w).toNat = 0 := by rw [h]; rfl
  rw [encodeBrk_toNat]
  simp only [opField, codeField, functField, extract_toNat] at h' ⊢
  omega

end Sys2Proof
end

