-- ==== Sys2Proof/Laws/Memory.lean ====
section
/-! SUPPORT. Memory: a read after a write, every write leaves the other bytes alone, every
operation keeps the canonical form. The same for the set of stored addresses. -/

namespace Sys2Proof.Machine

/-! ### Reading after writing -/

theorem recorded_write_same (m : Memory) (a : Nat) (b : Byte) :
    (m.write a b).recorded a = some b := by
  induction m with
  | nil => simp [Memory.write, Memory.recorded]
  | cons c m ih =>
    simp only [Memory.write]
    split
    · simp [Memory.recorded]
    · split
      · simp [Memory.recorded]
      · simp only [Memory.recorded]
        rw [if_neg (fun h => ‹¬ a = c.1› h.symm)]
        exact ih

theorem recorded_write_ne (m : Memory) {a x : Nat} (b : Byte) (h : x ≠ a) :
    (m.write a b).recorded x = m.recorded x := by
  induction m with
  | nil => simp [Memory.write, Memory.recorded, h.symm]
  | cons c m ih =>
    simp only [Memory.write]
    split
    · simp [Memory.recorded, h.symm]
    · split
      · next hc => simp [Memory.recorded, h.symm, hc.symm]
      · simp [Memory.recorded, ih]

theorem read_write_same (m : Memory) (a : Nat) (b : Byte) : (m.write a b).read a = b := by
  simp [Memory.read, recorded_write_same]

theorem read_write_ne (m : Memory) {a x : Nat} (b : Byte) (h : x ≠ a) :
    (m.write a b).read x = m.read x := by
  simp [Memory.read, recorded_write_ne m b h]

/-- Writing bytes leaves every byte outside them alone. -/
theorem recorded_writeBytes_outside (bs : List Byte) (m : Memory) (a x : Nat)
    (h : ¬ (a ≤ x ∧ x < a + bs.length)) : (m.writeBytes a bs).recorded x = m.recorded x := by
  induction bs generalizing m a with
  | nil => rfl
  | cons b bs ih =>
    simp only [List.length_cons] at h
    rw [Memory.writeBytes, ih _ _ (by omega), recorded_write_ne]
    omega

theorem read_writeBytes_outside (bs : List Byte) (m : Memory) (a x : Nat)
    (h : ¬ (a ≤ x ∧ x < a + bs.length)) : (m.writeBytes a bs).read x = m.read x := by
  simp [Memory.read, recorded_writeBytes_outside bs m a x h]

/-- Byte `i` of the bytes written stands at address `a + i`. -/
theorem read_writeBytes_inside (bs : List Byte) (m : Memory) (a i : Nat) (h : i < bs.length) :
    (m.writeBytes a bs).read (a + i) = bs[i] := by
  induction bs generalizing m a i with
  | nil => simp at h
  | cons b bs ih =>
    rw [Memory.writeBytes]
    cases i with
    | zero =>
      rw [read_writeBytes_outside _ _ _ _ (by omega)]
      simp [read_write_same]
    | succ i =>
      have := ih (m.write a b) (a + 1) i (by simpa using h)
      simpa [Nat.add_assoc, Nat.add_comm 1 i] using this

/-! ### The canonical form -/

theorem write_mem_address {m : Memory} {a : Nat} {b : Byte} {c : Host.Cell}
    (h : c ∈ m.write a b) : c.1 = a ∨ c ∈ m := by
  induction m with
  | nil => simp [Memory.write] at h; exact .inl (by rw [h])
  | cons d m ih =>
    simp only [Memory.write] at h
    split at h
    · rcases List.mem_cons.mp h with rfl | h
      · exact .inl rfl
      · exact .inr h
    · split at h
      · rcases List.mem_cons.mp h with rfl | h
        · exact .inl rfl
        · exact .inr (List.mem_cons_of_mem _ h)
      · rcases List.mem_cons.mp h with rfl | h
        · exact .inr List.mem_cons_self
        · exact (ih h).imp id (List.mem_cons_of_mem _)

theorem write_wf {m : Memory} {a : Nat} (b : Byte) (h : m.wf) (ha : a < 2 ^ 32) :
    (m.write a b).wf := by
  refine ⟨?_, fun c hc => (write_mem_address hc).elim (fun e => e ▸ ha) (h.2 c)⟩
  have hp := h.1
  clear h
  induction m with
  | nil => simp [Memory.write]
  | cons c m ih =>
    obtain ⟨hc, hm⟩ := List.pairwise_cons.mp hp
    simp only [Memory.write]
    split
    · next hlt =>
      refine List.pairwise_cons.mpr ⟨fun d hd => ?_, hp⟩
      rcases List.mem_cons.mp hd with rfl | hd
      · exact hlt
      · exact Nat.lt_trans hlt (hc d hd)
    · split
      · next heq => exact List.pairwise_cons.mpr ⟨fun d hd => heq ▸ hc d hd, hm⟩
      · refine List.pairwise_cons.mpr ⟨fun d hd => ?_, ih hm⟩
        rcases write_mem_address hd with e | hd
        · omega
        · exact hc d hd

theorem writeBytes_wf (bs : List Byte) {m : Memory} {a : Nat} (h : m.wf)
    (ha : a + bs.length ≤ 2 ^ 32) : (m.writeBytes a bs).wf := by
  induction bs generalizing m a with
  | nil => exact h
  | cons b bs ih =>
    simp only [List.length_cons] at ha
    exact ih (write_wf b h (by omega)) (by omega)

theorem empty_wf : Memory.wf [] := by simp [Memory.wf]

theorem ofCells_wf (cells : List (Word × Byte)) : (Memory.ofCells cells).wf := by
  have key : ∀ (l : List (Word × Byte)) (m : Memory), m.wf →
      (l.foldl (fun m c => m.write c.1.toNat c.2) m).wf := by
    intro l
    induction l with
    | nil => exact fun _ h => h
    | cons c l ih => exact fun m h => ih _ (write_wf _ h c.1.isLt)
  exact key cells [] empty_wf

/-! ### Sets of addresses -/

theorem mem_insertAddress {l : List Nat} {a x : Nat} :
    x ∈ insertAddress l a ↔ x = a ∨ x ∈ l := by
  induction l with
  | nil => simp [insertAddress]
  | cons y l ih =>
    simp only [insertAddress]
    split
    · simp
    · split
      · next h => subst h; simp
      · simp only [List.mem_cons, ih]; tauto

theorem mem_insertAddresses {l : List Nat} {a n x : Nat} :
    x ∈ insertAddresses l a n ↔ (a ≤ x ∧ x < a + n) ∨ x ∈ l := by
  induction n generalizing l a with
  | zero => simp [insertAddresses]
  | succ n ih =>
    rw [insertAddresses, ih, mem_insertAddress]
    constructor
    · rintro (h | rfl | h)
      · exact .inl (by omega)
      · exact .inl (by omega)
      · exact .inr h
    · rintro (h | h)
      · by_cases hx : x = a
        · exact .inr (.inl hx)
        · exact .inl (by omega)
      · exact .inr (.inr h)

theorem insertAddress_wf {l : List Nat} {a : Nat} (h : addressesWf l) (ha : a < 2 ^ 32) :
    addressesWf (insertAddress l a) := by
  refine ⟨?_, fun x hx => (mem_insertAddress.mp hx).elim (fun e => e ▸ ha) (h.2 x)⟩
  have hp := h.1
  clear h
  induction l with
  | nil => simp [insertAddress]
  | cons y l ih =>
    obtain ⟨hy, hl⟩ := List.pairwise_cons.mp hp
    simp only [insertAddress]
    split
    · next hlt =>
      refine List.pairwise_cons.mpr ⟨fun d hd => ?_, hp⟩
      rcases List.mem_cons.mp hd with rfl | hd
      · exact hlt
      · exact Nat.lt_trans hlt (hy d hd)
    · split
      · exact hp
      · refine List.pairwise_cons.mpr ⟨fun d hd => ?_, ih hl⟩
        rcases mem_insertAddress.mp hd with rfl | hd
        · omega
        · exact hy d hd

theorem insertAddresses_wf {l : List Nat} {a n : Nat} (h : addressesWf l)
    (ha : a + n ≤ 2 ^ 32) : addressesWf (insertAddresses l a n) := by
  induction n generalizing l a with
  | zero => exact h
  | succ n ih => exact ih (insertAddress_wf h (by omega)) (by omega)

end Sys2Proof.Machine
end

