-- ==== Sys2Proof/Laws/State.lean ====
section
/-! SUPPORT. One lemma per field per update of the state, so that no proof unfolds an update. -/

namespace Sys2Proof.Machine

variable (s : State)

/-! ### writeGpr -/

@[simp] theorem writeGpr_hi (r : Reg) (v : Word) : (s.writeGpr r v).hi = s.hi := rfl
@[simp] theorem writeGpr_lo (r : Reg) (v : Word) : (s.writeGpr r v).lo = s.lo := rfl
@[simp] theorem writeGpr_pc (r : Reg) (v : Word) : (s.writeGpr r v).pc = s.pc := rfl
@[simp] theorem writeGpr_delay (r : Reg) (v : Word) : (s.writeGpr r v).delay = s.delay := rfl
@[simp] theorem writeGpr_sr (r : Reg) (v : Word) : (s.writeGpr r v).sr = s.sr := rfl
@[simp] theorem writeGpr_cause (r : Reg) (v : Word) : (s.writeGpr r v).cause = s.cause := rfl
@[simp] theorem writeGpr_epc (r : Reg) (v : Word) : (s.writeGpr r v).epc = s.epc := rfl
@[simp] theorem writeGpr_tar (r : Reg) (v : Word) : (s.writeGpr r v).tar = s.tar := rfl
@[simp] theorem writeGpr_badA (r : Reg) (v : Word) : (s.writeGpr r v).badA = s.badA := rfl
@[simp] theorem writeGpr_bpc (r : Reg) (v : Word) : (s.writeGpr r v).bpc = s.bpc := rfl
@[simp] theorem writeGpr_bpcm (r : Reg) (v : Word) : (s.writeGpr r v).bpcm = s.bpcm := rfl
@[simp] theorem writeGpr_bda (r : Reg) (v : Word) : (s.writeGpr r v).bda = s.bda := rfl
@[simp] theorem writeGpr_bdam (r : Reg) (v : Word) : (s.writeGpr r v).bdam = s.bdam := rfl
@[simp] theorem writeGpr_dcic (r : Reg) (v : Word) : (s.writeGpr r v).dcic = s.dcic := rfl
@[simp] theorem writeGpr_mem (r : Reg) (v : Word) : (s.writeGpr r v).mem = s.mem := rfl
@[simp] theorem writeGpr_arrival (r : Reg) (v : Word) : (s.writeGpr r v).arrival = s.arrival := rfl
@[simp] theorem writeGpr_loadDelay (r : Reg) (v : Word) : (s.writeGpr r v).loadDelay = s.loadDelay := rfl
@[simp] theorem writeGpr_hiloGuard (r : Reg) (v : Word) : (s.writeGpr r v).hiloGuard = s.hiloGuard := rfl
@[simp] theorem writeGpr_hiloFollowers (r : Reg) (v : Word) : (s.writeGpr r v).hiloFollowers = s.hiloFollowers := rfl
@[simp] theorem writeGpr_cp0Window (r : Reg) (v : Word) : (s.writeGpr r v).cp0Window = s.cp0Window := rfl
@[simp] theorem writeGpr_stored (r : Reg) (v : Word) : (s.writeGpr r v).stored = s.stored := rfl
@[simp] theorem writeGpr_pendingStoreErrors (r : Reg) (v : Word) : (s.writeGpr r v).pendingStoreErrors = s.pendingStoreErrors := rfl
@[simp] theorem writeGpr_wrapped (r : Reg) (v : Word) : (s.writeGpr r v).wrapped = s.wrapped := rfl
@[simp] theorem writeGpr_steps (r : Reg) (v : Word) : (s.writeGpr r v).steps = s.steps := rfl
@[simp] theorem writeGpr_env (r : Reg) (v : Word) : (s.writeGpr r v).env = s.env := rfl
@[simp] theorem writeGpr_schedule (r : Reg) (v : Word) : (s.writeGpr r v).schedule = s.schedule := rfl
@[simp] theorem writeGpr_cfg (r : Reg) (v : Word) : (s.writeGpr r v).cfg = s.cfg := rfl

/-! ### retire -/

@[simp] theorem retire_regs (d : Delay) : (s.retire d).regs = s.regs := rfl
@[simp] theorem retire_hi (d : Delay) : (s.retire d).hi = s.hi := rfl
@[simp] theorem retire_lo (d : Delay) : (s.retire d).lo = s.lo := rfl
@[simp] theorem retire_pc (d : Delay) : (s.retire d).pc = s.nextPc := rfl
@[simp] theorem retire_delay (d : Delay) : (s.retire d).delay = d := rfl
@[simp] theorem retire_sr (d : Delay) : (s.retire d).sr = s.sr := rfl
@[simp] theorem retire_cause (d : Delay) : (s.retire d).cause = s.cause := rfl
@[simp] theorem retire_epc (d : Delay) : (s.retire d).epc = s.epc := rfl
@[simp] theorem retire_tar (d : Delay) : (s.retire d).tar = s.tar := rfl
@[simp] theorem retire_badA (d : Delay) : (s.retire d).badA = s.badA := rfl
@[simp] theorem retire_bpc (d : Delay) : (s.retire d).bpc = s.bpc := rfl
@[simp] theorem retire_bpcm (d : Delay) : (s.retire d).bpcm = s.bpcm := rfl
@[simp] theorem retire_bda (d : Delay) : (s.retire d).bda = s.bda := rfl
@[simp] theorem retire_bdam (d : Delay) : (s.retire d).bdam = s.bdam := rfl
@[simp] theorem retire_dcic (d : Delay) : (s.retire d).dcic = s.dcic := rfl
@[simp] theorem retire_mem (d : Delay) : (s.retire d).mem = s.mem := rfl
@[simp] theorem retire_arrival (d : Delay) : (s.retire d).arrival = if s.delay.taken then .target else .sequential := rfl
@[simp] theorem retire_loadDelay (d : Delay) : (s.retire d).loadDelay = none := rfl
@[simp] theorem retire_hiloGuard (d : Delay) : (s.retire d).hiloGuard = s.hiloGuard - 1 := rfl
@[simp] theorem retire_hiloFollowers (d : Delay) : (s.retire d).hiloFollowers = s.hiloFollowers := rfl
@[simp] theorem retire_cp0Window (d : Delay) : (s.retire d).cp0Window = windowAfterInstr s.cp0Window := rfl
@[simp] theorem retire_stored (d : Delay) : (s.retire d).stored = s.stored := rfl
@[simp] theorem retire_pendingStoreErrors (d : Delay) : (s.retire d).pendingStoreErrors = s.pendingStoreErrors := rfl
@[simp] theorem retire_wrapped (d : Delay) : (s.retire d).wrapped = (!s.delay.taken && decide (2 ^ 32 ≤ s.pc.toNat + 4)) := rfl
@[simp] theorem retire_steps (d : Delay) : (s.retire d).steps = s.steps + 1 := rfl
@[simp] theorem retire_env (d : Delay) : (s.retire d).env = s.env := rfl
@[simp] theorem retire_schedule (d : Delay) : (s.retire d).schedule = s.schedule := rfl
@[simp] theorem retire_cfg (d : Delay) : (s.retire d).cfg = s.cfg := rfl

/-! ### advance -/

@[simp] theorem advance_regs : (s.advance).regs = s.regs := rfl
@[simp] theorem advance_hi : (s.advance).hi = s.hi := rfl
@[simp] theorem advance_lo : (s.advance).lo = s.lo := rfl
@[simp] theorem advance_pc : (s.advance).pc = s.nextPc := rfl
@[simp] theorem advance_delay : (s.advance).delay = .none := rfl
@[simp] theorem advance_sr : (s.advance).sr = s.sr := rfl
@[simp] theorem advance_cause : (s.advance).cause = s.cause := rfl
@[simp] theorem advance_epc : (s.advance).epc = s.epc := rfl
@[simp] theorem advance_tar : (s.advance).tar = s.tar := rfl
@[simp] theorem advance_badA : (s.advance).badA = s.badA := rfl
@[simp] theorem advance_bpc : (s.advance).bpc = s.bpc := rfl
@[simp] theorem advance_bpcm : (s.advance).bpcm = s.bpcm := rfl
@[simp] theorem advance_bda : (s.advance).bda = s.bda := rfl
@[simp] theorem advance_bdam : (s.advance).bdam = s.bdam := rfl
@[simp] theorem advance_dcic : (s.advance).dcic = s.dcic := rfl
@[simp] theorem advance_mem : (s.advance).mem = s.mem := rfl
@[simp] theorem advance_arrival : (s.advance).arrival = if s.delay.taken then .target else .sequential := rfl
@[simp] theorem advance_loadDelay : (s.advance).loadDelay = none := rfl
@[simp] theorem advance_hiloGuard : (s.advance).hiloGuard = s.hiloGuard - 1 := rfl
@[simp] theorem advance_hiloFollowers : (s.advance).hiloFollowers = s.hiloFollowers := rfl
@[simp] theorem advance_cp0Window : (s.advance).cp0Window = windowAfterInstr s.cp0Window := rfl
@[simp] theorem advance_stored : (s.advance).stored = s.stored := rfl
@[simp] theorem advance_pendingStoreErrors : (s.advance).pendingStoreErrors = s.pendingStoreErrors := rfl
@[simp] theorem advance_wrapped : (s.advance).wrapped = (!s.delay.taken && decide (2 ^ 32 ≤ s.pc.toNat + 4)) := rfl
@[simp] theorem advance_steps : (s.advance).steps = s.steps + 1 := rfl
@[simp] theorem advance_env : (s.advance).env = s.env := rfl
@[simp] theorem advance_schedule : (s.advance).schedule = s.schedule := rfl
@[simp] theorem advance_cfg : (s.advance).cfg = s.cfg := rfl

/-! ### enter -/

@[simp] theorem enter_regs (e : Exc) (v : Word) : (s.enter e v).regs = s.regs := rfl
@[simp] theorem enter_hi (e : Exc) (v : Word) : (s.enter e v).hi = if s.followerWritesHiLo then Config.undef 32 .hi s.steps else s.hi := rfl
@[simp] theorem enter_lo (e : Exc) (v : Word) : (s.enter e v).lo = if s.followerWritesHiLo then Config.undef 32 .lo s.steps else s.lo := rfl
@[simp] theorem enter_pc (e : Exc) (v : Word) : (s.enter e v).pc = v := rfl
@[simp] theorem enter_delay (e : Exc) (v : Word) : (s.enter e v).delay = .none := rfl
@[simp] theorem enter_sr (e : Exc) (v : Word) : (s.enter e v).sr = pushStatus s.sr := rfl
@[simp] theorem enter_cause (e : Exc) (v : Word) : (s.enter e v).cause = s.causeAfter e := rfl
@[simp] theorem enter_epc (e : Exc) (v : Word) : (s.enter e v).epc = s.restartPc := rfl
@[simp] theorem enter_tar (e : Exc) (v : Word) : (s.enter e v).tar = s.tarAfter := rfl
@[simp] theorem enter_badA (e : Exc) (v : Word) : (s.enter e v).badA = s.badAAfter e := rfl
@[simp] theorem enter_bpc (e : Exc) (v : Word) : (s.enter e v).bpc = s.bpc := rfl
@[simp] theorem enter_bpcm (e : Exc) (v : Word) : (s.enter e v).bpcm = s.bpcm := rfl
@[simp] theorem enter_bda (e : Exc) (v : Word) : (s.enter e v).bda = s.bda := rfl
@[simp] theorem enter_bdam (e : Exc) (v : Word) : (s.enter e v).bdam = s.bdam := rfl
@[simp] theorem enter_dcic (e : Exc) (v : Word) : (s.enter e v).dcic = s.dcic := rfl
@[simp] theorem enter_mem (e : Exc) (v : Word) : (s.enter e v).mem = s.mem := rfl
@[simp] theorem enter_arrival (e : Exc) (v : Word) : (s.enter e v).arrival = .vector := rfl
@[simp] theorem enter_loadDelay (e : Exc) (v : Word) : (s.enter e v).loadDelay = none := rfl
@[simp] theorem enter_hiloGuard (e : Exc) (v : Word) : (s.enter e v).hiloGuard = s.hiloGuard := rfl
@[simp] theorem enter_hiloFollowers (e : Exc) (v : Word) : (s.enter e v).hiloFollowers = s.hiloFollowers := rfl
@[simp] theorem enter_cp0Window (e : Exc) (v : Word) : (s.enter e v).cp0Window = windowAfterEntry s.cp0Window := rfl
@[simp] theorem enter_stored (e : Exc) (v : Word) : (s.enter e v).stored = s.stored := rfl
@[simp] theorem enter_pendingStoreErrors (e : Exc) (v : Word) : (s.enter e v).pendingStoreErrors = s.pendingStoreErrors := rfl
@[simp] theorem enter_wrapped (e : Exc) (v : Word) : (s.enter e v).wrapped = false := rfl
@[simp] theorem enter_steps (e : Exc) (v : Word) : (s.enter e v).steps = s.steps + 1 := rfl
@[simp] theorem enter_env (e : Exc) (v : Word) : (s.enter e v).env = s.env := rfl
@[simp] theorem enter_schedule (e : Exc) (v : Word) : (s.enter e v).schedule = s.schedule := rfl
@[simp] theorem enter_cfg (e : Exc) (v : Word) : (s.enter e v).cfg = s.cfg := rfl

/-! ### popStatusStack -/

@[simp] theorem popStatusStack_regs : (s.popStatusStack).regs = s.regs := rfl
@[simp] theorem popStatusStack_hi : (s.popStatusStack).hi = s.hi := rfl
@[simp] theorem popStatusStack_lo : (s.popStatusStack).lo = s.lo := rfl
@[simp] theorem popStatusStack_pc : (s.popStatusStack).pc = s.pc := rfl
@[simp] theorem popStatusStack_delay : (s.popStatusStack).delay = s.delay := rfl
@[simp] theorem popStatusStack_sr : (s.popStatusStack).sr = popStatus s.sr := rfl
@[simp] theorem popStatusStack_cause : (s.popStatusStack).cause = s.cause := rfl
@[simp] theorem popStatusStack_epc : (s.popStatusStack).epc = s.epc := rfl
@[simp] theorem popStatusStack_tar : (s.popStatusStack).tar = s.tar := rfl
@[simp] theorem popStatusStack_badA : (s.popStatusStack).badA = s.badA := rfl
@[simp] theorem popStatusStack_bpc : (s.popStatusStack).bpc = s.bpc := rfl
@[simp] theorem popStatusStack_bpcm : (s.popStatusStack).bpcm = s.bpcm := rfl
@[simp] theorem popStatusStack_bda : (s.popStatusStack).bda = s.bda := rfl
@[simp] theorem popStatusStack_bdam : (s.popStatusStack).bdam = s.bdam := rfl
@[simp] theorem popStatusStack_dcic : (s.popStatusStack).dcic = s.dcic := rfl
@[simp] theorem popStatusStack_mem : (s.popStatusStack).mem = s.mem := rfl
@[simp] theorem popStatusStack_arrival : (s.popStatusStack).arrival = s.arrival := rfl
@[simp] theorem popStatusStack_loadDelay : (s.popStatusStack).loadDelay = s.loadDelay := rfl
@[simp] theorem popStatusStack_hiloGuard : (s.popStatusStack).hiloGuard = s.hiloGuard := rfl
@[simp] theorem popStatusStack_hiloFollowers : (s.popStatusStack).hiloFollowers = s.hiloFollowers := rfl
@[simp] theorem popStatusStack_cp0Window : (s.popStatusStack).cp0Window = s.cp0Window := rfl
@[simp] theorem popStatusStack_stored : (s.popStatusStack).stored = s.stored := rfl
@[simp] theorem popStatusStack_pendingStoreErrors : (s.popStatusStack).pendingStoreErrors = s.pendingStoreErrors := rfl
@[simp] theorem popStatusStack_wrapped : (s.popStatusStack).wrapped = s.wrapped := rfl
@[simp] theorem popStatusStack_steps : (s.popStatusStack).steps = s.steps := rfl
@[simp] theorem popStatusStack_env : (s.popStatusStack).env = s.env := rfl
@[simp] theorem popStatusStack_schedule : (s.popStatusStack).schedule = s.schedule := rfl
@[simp] theorem popStatusStack_cfg : (s.popStatusStack).cfg = s.cfg := rfl

/-! ### putBytes -/

@[simp] theorem putBytes_regs (ea : Word) (bs : List Byte) : (s.putBytes ea bs).regs = s.regs := rfl
@[simp] theorem putBytes_hi (ea : Word) (bs : List Byte) : (s.putBytes ea bs).hi = s.hi := rfl
@[simp] theorem putBytes_lo (ea : Word) (bs : List Byte) : (s.putBytes ea bs).lo = s.lo := rfl
@[simp] theorem putBytes_pc (ea : Word) (bs : List Byte) : (s.putBytes ea bs).pc = s.pc := rfl
@[simp] theorem putBytes_delay (ea : Word) (bs : List Byte) : (s.putBytes ea bs).delay = s.delay := rfl
@[simp] theorem putBytes_sr (ea : Word) (bs : List Byte) : (s.putBytes ea bs).sr = s.sr := rfl
@[simp] theorem putBytes_cause (ea : Word) (bs : List Byte) : (s.putBytes ea bs).cause = s.cause := rfl
@[simp] theorem putBytes_epc (ea : Word) (bs : List Byte) : (s.putBytes ea bs).epc = s.epc := rfl
@[simp] theorem putBytes_tar (ea : Word) (bs : List Byte) : (s.putBytes ea bs).tar = s.tar := rfl
@[simp] theorem putBytes_badA (ea : Word) (bs : List Byte) : (s.putBytes ea bs).badA = s.badA := rfl
@[simp] theorem putBytes_bpc (ea : Word) (bs : List Byte) : (s.putBytes ea bs).bpc = s.bpc := rfl
@[simp] theorem putBytes_bpcm (ea : Word) (bs : List Byte) : (s.putBytes ea bs).bpcm = s.bpcm := rfl
@[simp] theorem putBytes_bda (ea : Word) (bs : List Byte) : (s.putBytes ea bs).bda = s.bda := rfl
@[simp] theorem putBytes_bdam (ea : Word) (bs : List Byte) : (s.putBytes ea bs).bdam = s.bdam := rfl
@[simp] theorem putBytes_dcic (ea : Word) (bs : List Byte) : (s.putBytes ea bs).dcic = s.dcic := rfl
@[simp] theorem putBytes_mem (ea : Word) (bs : List Byte) : (s.putBytes ea bs).mem = s.mem.writeBytes ea.toNat bs := rfl
@[simp] theorem putBytes_arrival (ea : Word) (bs : List Byte) : (s.putBytes ea bs).arrival = s.arrival := rfl
@[simp] theorem putBytes_loadDelay (ea : Word) (bs : List Byte) : (s.putBytes ea bs).loadDelay = s.loadDelay := rfl
@[simp] theorem putBytes_hiloGuard (ea : Word) (bs : List Byte) : (s.putBytes ea bs).hiloGuard = s.hiloGuard := rfl
@[simp] theorem putBytes_hiloFollowers (ea : Word) (bs : List Byte) : (s.putBytes ea bs).hiloFollowers = s.hiloFollowers := rfl
@[simp] theorem putBytes_cp0Window (ea : Word) (bs : List Byte) : (s.putBytes ea bs).cp0Window = s.cp0Window := rfl
@[simp] theorem putBytes_stored (ea : Word) (bs : List Byte) : (s.putBytes ea bs).stored = insertAddresses s.stored ea.toNat bs.length := rfl
@[simp] theorem putBytes_pendingStoreErrors (ea : Word) (bs : List Byte) : (s.putBytes ea bs).pendingStoreErrors = s.pendingStoreErrors := rfl
@[simp] theorem putBytes_wrapped (ea : Word) (bs : List Byte) : (s.putBytes ea bs).wrapped = s.wrapped := rfl
@[simp] theorem putBytes_steps (ea : Word) (bs : List Byte) : (s.putBytes ea bs).steps = s.steps := rfl
@[simp] theorem putBytes_env (ea : Word) (bs : List Byte) : (s.putBytes ea bs).env = s.env := rfl
@[simp] theorem putBytes_schedule (ea : Word) (bs : List Byte) : (s.putBytes ea bs).schedule = s.schedule := rfl
@[simp] theorem putBytes_cfg (ea : Word) (bs : List Byte) : (s.putBytes ea bs).cfg = s.cfg := rfl

/-! ### failStore -/

@[simp] theorem failStore_regs (ea : Word) (w : Width) : (s.failStore ea w).regs = s.regs := rfl
@[simp] theorem failStore_hi (ea : Word) (w : Width) : (s.failStore ea w).hi = s.hi := rfl
@[simp] theorem failStore_lo (ea : Word) (w : Width) : (s.failStore ea w).lo = s.lo := rfl
@[simp] theorem failStore_pc (ea : Word) (w : Width) : (s.failStore ea w).pc = s.pc := rfl
@[simp] theorem failStore_delay (ea : Word) (w : Width) : (s.failStore ea w).delay = s.delay := rfl
@[simp] theorem failStore_sr (ea : Word) (w : Width) : (s.failStore ea w).sr = s.sr := rfl
@[simp] theorem failStore_cause (ea : Word) (w : Width) : (s.failStore ea w).cause = s.cause := rfl
@[simp] theorem failStore_epc (ea : Word) (w : Width) : (s.failStore ea w).epc = s.epc := rfl
@[simp] theorem failStore_tar (ea : Word) (w : Width) : (s.failStore ea w).tar = s.tar := rfl
@[simp] theorem failStore_badA (ea : Word) (w : Width) : (s.failStore ea w).badA = s.badA := rfl
@[simp] theorem failStore_bpc (ea : Word) (w : Width) : (s.failStore ea w).bpc = s.bpc := rfl
@[simp] theorem failStore_bpcm (ea : Word) (w : Width) : (s.failStore ea w).bpcm = s.bpcm := rfl
@[simp] theorem failStore_bda (ea : Word) (w : Width) : (s.failStore ea w).bda = s.bda := rfl
@[simp] theorem failStore_bdam (ea : Word) (w : Width) : (s.failStore ea w).bdam = s.bdam := rfl
@[simp] theorem failStore_dcic (ea : Word) (w : Width) : (s.failStore ea w).dcic = s.dcic := rfl
@[simp] theorem failStore_mem (ea : Word) (w : Width) : (s.failStore ea w).mem = s.mem.writeBytes ea.toNat (s.lostBytes w) := rfl
@[simp] theorem failStore_arrival (ea : Word) (w : Width) : (s.failStore ea w).arrival = s.arrival := rfl
@[simp] theorem failStore_loadDelay (ea : Word) (w : Width) : (s.failStore ea w).loadDelay = s.loadDelay := rfl
@[simp] theorem failStore_hiloGuard (ea : Word) (w : Width) : (s.failStore ea w).hiloGuard = s.hiloGuard := rfl
@[simp] theorem failStore_hiloFollowers (ea : Word) (w : Width) : (s.failStore ea w).hiloFollowers = s.hiloFollowers := rfl
@[simp] theorem failStore_cp0Window (ea : Word) (w : Width) : (s.failStore ea w).cp0Window = s.cp0Window := rfl
@[simp] theorem failStore_stored (ea : Word) (w : Width) : (s.failStore ea w).stored = insertAddresses s.stored ea.toNat (s.lostBytes w).length := rfl
@[simp] theorem failStore_pendingStoreErrors (ea : Word) (w : Width) : (s.failStore ea w).pendingStoreErrors = s.pendingStoreErrors + 1 := rfl
@[simp] theorem failStore_wrapped (ea : Word) (w : Width) : (s.failStore ea w).wrapped = s.wrapped := rfl
@[simp] theorem failStore_steps (ea : Word) (w : Width) : (s.failStore ea w).steps = s.steps := rfl
@[simp] theorem failStore_env (ea : Word) (w : Width) : (s.failStore ea w).env = s.env := rfl
@[simp] theorem failStore_schedule (ea : Word) (w : Width) : (s.failStore ea w).schedule = s.schedule := rfl
@[simp] theorem failStore_cfg (ea : Word) (w : Width) : (s.failStore ea w).cfg = s.cfg := rfl

/-! ### postDebug -/

@[simp] theorem postDebug_regs (b : Word) : (s.postDebug b).regs = s.regs := rfl
@[simp] theorem postDebug_hi (b : Word) : (s.postDebug b).hi = s.hi := rfl
@[simp] theorem postDebug_lo (b : Word) : (s.postDebug b).lo = s.lo := rfl
@[simp] theorem postDebug_pc (b : Word) : (s.postDebug b).pc = s.pc := rfl
@[simp] theorem postDebug_delay (b : Word) : (s.postDebug b).delay = s.delay := rfl
@[simp] theorem postDebug_sr (b : Word) : (s.postDebug b).sr = s.sr := rfl
@[simp] theorem postDebug_cause (b : Word) : (s.postDebug b).cause = s.cause := rfl
@[simp] theorem postDebug_epc (b : Word) : (s.postDebug b).epc = s.epc := rfl
@[simp] theorem postDebug_tar (b : Word) : (s.postDebug b).tar = s.tar := rfl
@[simp] theorem postDebug_badA (b : Word) : (s.postDebug b).badA = s.badA := rfl
@[simp] theorem postDebug_bpc (b : Word) : (s.postDebug b).bpc = s.bpc := rfl
@[simp] theorem postDebug_bpcm (b : Word) : (s.postDebug b).bpcm = s.bpcm := rfl
@[simp] theorem postDebug_bda (b : Word) : (s.postDebug b).bda = s.bda := rfl
@[simp] theorem postDebug_bdam (b : Word) : (s.postDebug b).bdam = s.bdam := rfl
@[simp] theorem postDebug_dcic (b : Word) : (s.postDebug b).dcic = if b = 0#32 then s.dcic else s.dcic ||| b ||| 1#32 := rfl
@[simp] theorem postDebug_mem (b : Word) : (s.postDebug b).mem = s.mem := rfl
@[simp] theorem postDebug_arrival (b : Word) : (s.postDebug b).arrival = s.arrival := rfl
@[simp] theorem postDebug_loadDelay (b : Word) : (s.postDebug b).loadDelay = s.loadDelay := rfl
@[simp] theorem postDebug_hiloGuard (b : Word) : (s.postDebug b).hiloGuard = s.hiloGuard := rfl
@[simp] theorem postDebug_hiloFollowers (b : Word) : (s.postDebug b).hiloFollowers = s.hiloFollowers := rfl
@[simp] theorem postDebug_cp0Window (b : Word) : (s.postDebug b).cp0Window = s.cp0Window := rfl
@[simp] theorem postDebug_stored (b : Word) : (s.postDebug b).stored = s.stored := rfl
@[simp] theorem postDebug_pendingStoreErrors (b : Word) : (s.postDebug b).pendingStoreErrors = s.pendingStoreErrors := rfl
@[simp] theorem postDebug_wrapped (b : Word) : (s.postDebug b).wrapped = s.wrapped := rfl
@[simp] theorem postDebug_steps (b : Word) : (s.postDebug b).steps = s.steps := rfl
@[simp] theorem postDebug_env (b : Word) : (s.postDebug b).env = s.env := rfl
@[simp] theorem postDebug_schedule (b : Word) : (s.postDebug b).schedule = s.schedule := rfl
@[simp] theorem postDebug_cfg (b : Word) : (s.postDebug b).cfg = s.cfg := rfl

/-! ### notePar -/

@[simp] theorem notePar_regs : (s.notePar).regs = s.regs := rfl
@[simp] theorem notePar_hi : (s.notePar).hi = s.hi := rfl
@[simp] theorem notePar_lo : (s.notePar).lo = s.lo := rfl
@[simp] theorem notePar_pc : (s.notePar).pc = s.pc := rfl
@[simp] theorem notePar_delay : (s.notePar).delay = s.delay := rfl
@[simp] theorem notePar_sr : (s.notePar).sr = if s.env.parityError then s.sr ||| srPe else s.sr := rfl
@[simp] theorem notePar_cause : (s.notePar).cause = s.cause := rfl
@[simp] theorem notePar_epc : (s.notePar).epc = s.epc := rfl
@[simp] theorem notePar_tar : (s.notePar).tar = s.tar := rfl
@[simp] theorem notePar_badA : (s.notePar).badA = s.badA := rfl
@[simp] theorem notePar_bpc : (s.notePar).bpc = s.bpc := rfl
@[simp] theorem notePar_bpcm : (s.notePar).bpcm = s.bpcm := rfl
@[simp] theorem notePar_bda : (s.notePar).bda = s.bda := rfl
@[simp] theorem notePar_bdam : (s.notePar).bdam = s.bdam := rfl
@[simp] theorem notePar_dcic : (s.notePar).dcic = s.dcic := rfl
@[simp] theorem notePar_mem : (s.notePar).mem = s.mem := rfl
@[simp] theorem notePar_arrival : (s.notePar).arrival = s.arrival := rfl
@[simp] theorem notePar_loadDelay : (s.notePar).loadDelay = s.loadDelay := rfl
@[simp] theorem notePar_hiloGuard : (s.notePar).hiloGuard = s.hiloGuard := rfl
@[simp] theorem notePar_hiloFollowers : (s.notePar).hiloFollowers = s.hiloFollowers := rfl
@[simp] theorem notePar_cp0Window : (s.notePar).cp0Window = s.cp0Window := rfl
@[simp] theorem notePar_stored : (s.notePar).stored = s.stored := rfl
@[simp] theorem notePar_pendingStoreErrors : (s.notePar).pendingStoreErrors = s.pendingStoreErrors := rfl
@[simp] theorem notePar_wrapped : (s.notePar).wrapped = s.wrapped := rfl
@[simp] theorem notePar_steps : (s.notePar).steps = s.steps := rfl
@[simp] theorem notePar_env : (s.notePar).env = { s.env with parityError := false } := rfl
@[simp] theorem notePar_schedule : (s.notePar).schedule = s.schedule := rfl
@[simp] theorem notePar_cfg : (s.notePar).cfg = s.cfg := rfl

/-! ### nextEnv -/

@[simp] theorem nextEnv_regs : (s.nextEnv).regs = s.regs := rfl
@[simp] theorem nextEnv_hi : (s.nextEnv).hi = s.hi := rfl
@[simp] theorem nextEnv_lo : (s.nextEnv).lo = s.lo := rfl
@[simp] theorem nextEnv_pc : (s.nextEnv).pc = s.pc := rfl
@[simp] theorem nextEnv_delay : (s.nextEnv).delay = s.delay := rfl
@[simp] theorem nextEnv_sr : (s.nextEnv).sr = s.sr := rfl
@[simp] theorem nextEnv_cause : (s.nextEnv).cause = s.cause := rfl
@[simp] theorem nextEnv_epc : (s.nextEnv).epc = s.epc := rfl
@[simp] theorem nextEnv_tar : (s.nextEnv).tar = s.tar := rfl
@[simp] theorem nextEnv_badA : (s.nextEnv).badA = s.badA := rfl
@[simp] theorem nextEnv_bpc : (s.nextEnv).bpc = s.bpc := rfl
@[simp] theorem nextEnv_bpcm : (s.nextEnv).bpcm = s.bpcm := rfl
@[simp] theorem nextEnv_bda : (s.nextEnv).bda = s.bda := rfl
@[simp] theorem nextEnv_bdam : (s.nextEnv).bdam = s.bdam := rfl
@[simp] theorem nextEnv_dcic : (s.nextEnv).dcic = s.dcic := rfl
@[simp] theorem nextEnv_mem : (s.nextEnv).mem = s.mem := rfl
@[simp] theorem nextEnv_arrival : (s.nextEnv).arrival = s.arrival := rfl
@[simp] theorem nextEnv_loadDelay : (s.nextEnv).loadDelay = s.loadDelay := rfl
@[simp] theorem nextEnv_hiloGuard : (s.nextEnv).hiloGuard = s.hiloGuard := rfl
@[simp] theorem nextEnv_hiloFollowers : (s.nextEnv).hiloFollowers = s.hiloFollowers := rfl
@[simp] theorem nextEnv_cp0Window : (s.nextEnv).cp0Window = s.cp0Window := rfl
@[simp] theorem nextEnv_stored : (s.nextEnv).stored = s.stored := rfl
@[simp] theorem nextEnv_pendingStoreErrors : (s.nextEnv).pendingStoreErrors = s.pendingStoreErrors := rfl
@[simp] theorem nextEnv_wrapped : (s.nextEnv).wrapped = s.wrapped := rfl
@[simp] theorem nextEnv_steps : (s.nextEnv).steps = s.steps := rfl
@[simp] theorem nextEnv_env : (s.nextEnv).env = s.schedule.head?.getD (Env.hold s.env) := rfl
@[simp] theorem nextEnv_schedule : (s.nextEnv).schedule = s.schedule.tail := rfl
@[simp] theorem nextEnv_cfg : (s.nextEnv).cfg = s.cfg := rfl

/-! ### hold -/

@[simp] theorem hold_reset (e : Env) : (Env.hold e).reset = none := rfl
@[simp] theorem hold_parityError (e : Env) : (Env.hold e).parityError = false := rfl
@[simp] theorem hold_int (e : Env) : (Env.hold e).int = e.int := rfl
@[simp] theorem hold_intMask (e : Env) : (Env.hold e).intMask = e.intMask := rfl
@[simp] theorem hold_cpc (e : Env) : (Env.hold e).cpc = e.cpc := rfl
@[simp] theorem hold_berrFetch (e : Env) : (Env.hold e).berrFetch = false := rfl
@[simp] theorem hold_berrData (e : Env) : (Env.hold e).berrData = false := rfl
@[simp] theorem hold_takeInterrupt (e : Env) : (Env.hold e).takeInterrupt = true := rfl
@[simp] theorem hold_deliverStoreError (e : Env) : (Env.hold e).deliverStoreError = true := rfl

/-! ### resetBy

Cite these and do not let a check unfold `resetBy` against another state: its register file is
large. -/

@[simp] theorem resetBy_hi (ev : ResetEvent) : (s.resetBy ev).hi = Config.undef 32 .hi s.steps := rfl
@[simp] theorem resetBy_lo (ev : ResetEvent) : (s.resetBy ev).lo = Config.undef 32 .lo s.steps := rfl
@[simp] theorem resetBy_pc (ev : ResetEvent) : (s.resetBy ev).pc = resetVector := rfl
@[simp] theorem resetBy_delay (ev : ResetEvent) : (s.resetBy ev).delay = .none := rfl
@[simp] theorem resetBy_sr (ev : ResetEvent) : (s.resetBy ev).sr = resetSr := rfl
@[simp] theorem resetBy_cause (ev : ResetEvent) : (s.resetBy ev).cause = resetCause := rfl
@[simp] theorem resetBy_epc (ev : ResetEvent) : (s.resetBy ev).epc = afterReset ev.kind s.epc (Config.undef 32 .epc s.steps) := rfl
@[simp] theorem resetBy_tar (ev : ResetEvent) : (s.resetBy ev).tar = afterReset ev.kind s.tar (Config.undef 32 .tar s.steps) := rfl
@[simp] theorem resetBy_badA (ev : ResetEvent) : (s.resetBy ev).badA = Config.undef 32 .badA s.steps := rfl
@[simp] theorem resetBy_bpc (ev : ResetEvent) : (s.resetBy ev).bpc = afterReset ev.kind s.bpc (Config.undef 32 .bpc s.steps) := rfl
@[simp] theorem resetBy_bpcm (ev : ResetEvent) : (s.resetBy ev).bpcm = resetMask := rfl
@[simp] theorem resetBy_bda (ev : ResetEvent) : (s.resetBy ev).bda = afterReset ev.kind s.bda (Config.undef 32 .bda s.steps) := rfl
@[simp] theorem resetBy_bdam (ev : ResetEvent) : (s.resetBy ev).bdam = resetMask := rfl
@[simp] theorem resetBy_dcic (ev : ResetEvent) : (s.resetBy ev).dcic = 0#32 := rfl
@[simp] theorem resetBy_mem (ev : ResetEvent) : (s.resetBy ev).mem = Memory.ofCells ev.memory := rfl
@[simp] theorem resetBy_arrival (ev : ResetEvent) : (s.resetBy ev).arrival = .sequential := rfl
@[simp] theorem resetBy_loadDelay (ev : ResetEvent) : (s.resetBy ev).loadDelay = none := rfl
@[simp] theorem resetBy_hiloGuard (ev : ResetEvent) : (s.resetBy ev).hiloGuard = 0 := rfl
@[simp] theorem resetBy_hiloFollowers (ev : ResetEvent) : (s.resetBy ev).hiloFollowers = s.hiloFollowers := by
  unfold State.resetBy; rfl
@[simp] theorem resetBy_cp0Window (ev : ResetEvent) : (s.resetBy ev).cp0Window = [] := rfl
@[simp] theorem resetBy_stored (ev : ResetEvent) : (s.resetBy ev).stored = s.stored := by
  unfold State.resetBy; rfl
@[simp] theorem resetBy_pendingStoreErrors (ev : ResetEvent) : (s.resetBy ev).pendingStoreErrors = if ev.storesComplete then s.pendingStoreErrors else 0 := rfl
@[simp] theorem resetBy_wrapped (ev : ResetEvent) : (s.resetBy ev).wrapped = false := rfl
@[simp] theorem resetBy_steps (ev : ResetEvent) : (s.resetBy ev).steps = s.steps + 1 := rfl
@[simp] theorem resetBy_env (ev : ResetEvent) : (s.resetBy ev).env = s.env := by
  unfold State.resetBy; rfl
@[simp] theorem resetBy_schedule (ev : ResetEvent) : (s.resetBy ev).schedule = s.schedule := by
  unfold State.resetBy; rfl
@[simp] theorem resetBy_cfg (ev : ResetEvent) : (s.resetBy ev).cfg = s.cfg := by
  unfold State.resetBy; rfl

/-! ### openCp0Window -/

@[simp] theorem openCp0Window_regs (r : Cp0Reg) (b : Word) (p : Bool) : (s.openCp0Window r b p).regs = s.regs := rfl
@[simp] theorem openCp0Window_hi (r : Cp0Reg) (b : Word) (p : Bool) : (s.openCp0Window r b p).hi = s.hi := rfl
@[simp] theorem openCp0Window_lo (r : Cp0Reg) (b : Word) (p : Bool) : (s.openCp0Window r b p).lo = s.lo := rfl
@[simp] theorem openCp0Window_pc (r : Cp0Reg) (b : Word) (p : Bool) : (s.openCp0Window r b p).pc = s.pc := rfl
@[simp] theorem openCp0Window_delay (r : Cp0Reg) (b : Word) (p : Bool) : (s.openCp0Window r b p).delay = s.delay := rfl
@[simp] theorem openCp0Window_sr (r : Cp0Reg) (b : Word) (p : Bool) : (s.openCp0Window r b p).sr = s.sr := rfl
@[simp] theorem openCp0Window_cause (r : Cp0Reg) (b : Word) (p : Bool) : (s.openCp0Window r b p).cause = s.cause := rfl
@[simp] theorem openCp0Window_epc (r : Cp0Reg) (b : Word) (p : Bool) : (s.openCp0Window r b p).epc = s.epc := rfl
@[simp] theorem openCp0Window_tar (r : Cp0Reg) (b : Word) (p : Bool) : (s.openCp0Window r b p).tar = s.tar := rfl
@[simp] theorem openCp0Window_badA (r : Cp0Reg) (b : Word) (p : Bool) : (s.openCp0Window r b p).badA = s.badA := rfl
@[simp] theorem openCp0Window_bpc (r : Cp0Reg) (b : Word) (p : Bool) : (s.openCp0Window r b p).bpc = s.bpc := rfl
@[simp] theorem openCp0Window_bpcm (r : Cp0Reg) (b : Word) (p : Bool) : (s.openCp0Window r b p).bpcm = s.bpcm := rfl
@[simp] theorem openCp0Window_bda (r : Cp0Reg) (b : Word) (p : Bool) : (s.openCp0Window r b p).bda = s.bda := rfl
@[simp] theorem openCp0Window_bdam (r : Cp0Reg) (b : Word) (p : Bool) : (s.openCp0Window r b p).bdam = s.bdam := rfl
@[simp] theorem openCp0Window_dcic (r : Cp0Reg) (b : Word) (p : Bool) : (s.openCp0Window r b p).dcic = s.dcic := rfl
@[simp] theorem openCp0Window_mem (r : Cp0Reg) (b : Word) (p : Bool) : (s.openCp0Window r b p).mem = s.mem := rfl
@[simp] theorem openCp0Window_arrival (r : Cp0Reg) (b : Word) (p : Bool) : (s.openCp0Window r b p).arrival = s.arrival := rfl
@[simp] theorem openCp0Window_loadDelay (r : Cp0Reg) (b : Word) (p : Bool) : (s.openCp0Window r b p).loadDelay = s.loadDelay := rfl
@[simp] theorem openCp0Window_hiloGuard (r : Cp0Reg) (b : Word) (p : Bool) : (s.openCp0Window r b p).hiloGuard = s.hiloGuard := rfl
@[simp] theorem openCp0Window_hiloFollowers (r : Cp0Reg) (b : Word) (p : Bool) : (s.openCp0Window r b p).hiloFollowers = s.hiloFollowers := rfl
@[simp] theorem openCp0Window_stored (r : Cp0Reg) (b : Word) (p : Bool) : (s.openCp0Window r b p).stored = s.stored := rfl
@[simp] theorem openCp0Window_pendingStoreErrors (r : Cp0Reg) (b : Word) (p : Bool) : (s.openCp0Window r b p).pendingStoreErrors = s.pendingStoreErrors := rfl
@[simp] theorem openCp0Window_wrapped (r : Cp0Reg) (b : Word) (p : Bool) : (s.openCp0Window r b p).wrapped = s.wrapped := rfl
@[simp] theorem openCp0Window_steps (r : Cp0Reg) (b : Word) (p : Bool) : (s.openCp0Window r b p).steps = s.steps := rfl
@[simp] theorem openCp0Window_env (r : Cp0Reg) (b : Word) (p : Bool) : (s.openCp0Window r b p).env = s.env := rfl
@[simp] theorem openCp0Window_schedule (r : Cp0Reg) (b : Word) (p : Bool) : (s.openCp0Window r b p).schedule = s.schedule := rfl
@[simp] theorem openCp0Window_cfg (r : Cp0Reg) (b : Word) (p : Bool) : (s.openCp0Window r b p).cfg = s.cfg := rfl

/-! ### Updates made of others -/

@[simp] theorem gpr_zero : s.gpr 0#5 = 0#32 := rfl

/-- Without a parity error nothing is noted. -/
theorem notePar_eq_self (h : s.env.parityError = false) : s.notePar = s := by
  have he : { s.env with parityError := false } = s.env := by rw [← h]
  unfold State.notePar
  rw [he, h]
  rfl

/-- A noted parity error is used up. -/
theorem notePar_notePar : s.notePar.notePar = s.notePar := notePar_eq_self _ rfl

/-- The two states RFE can lead to. -/
theorem restoreStatus_cases :
    s.restoreStatus = s.popStatusStack.advance ∨
      s.restoreStatus =
        s.popStatusStack.advance.openCp0Window .sr (s.sr ^^^ popStatus s.sr) true := by
  unfold State.restoreStatus
  split
  · exact .inl rfl
  · exact .inr rfl

theorem raise_eq_enter (e : Exc) : s.raise e = s.enter e s.generalVector := rfl
theorem raiseDebug_eq_enter : s.raiseDebug = s.enter .bp s.debugVector := rfl
theorem writeAndAdvance_eq (r : Reg) (v : Word) : s.writeAndAdvance r v = (s.writeGpr r v).advance := rfl

end Sys2Proof.Machine
end

