-- ==== Sys2Proof/Laws/Ops.lean ====
section
/-! SUPPORT. For each shared operation, once, everything it can do. -/

namespace Sys2Proof.Machine

/-! ### Registers -/

/-- What register `q` reads after a write of `v` to register `r`. -/
theorem gpr_writeGpr (s : State) (r q : Reg) (v : Word) :
    (s.writeGpr r v).gpr q =
      if q = r ∧ r ≠ 0#5 then
        (if s.loadDelay = some r then Config.undef 32 .writeGpr s.steps else v)
      else s.gpr q := by
  by_cases hr : r = 0#5
  · simp [State.gpr, State.writeGpr, hr]
  · by_cases hq : q = r
    · subst hq
      simp [State.gpr, State.writeGpr, hr]
    · have hne : r.toNat ≠ q.toNat := fun h => hq (BitVec.eq_of_toNat_eq h.symm)
      simp [State.gpr, State.writeGpr, hr, hq, hne]

/-- Two states with the same register file read the same registers. -/
theorem gpr_congr {s t : State} (h : t.regs = s.regs) (r : Reg) : t.gpr r = s.gpr r := by
  simp [State.gpr, h]

@[simp] theorem gpr_retire (s : State) (d : Delay) (r : Reg) : (s.retire d).gpr r = s.gpr r := rfl
@[simp] theorem gpr_advance (s : State) (r : Reg) : s.advance.gpr r = s.gpr r := rfl
@[simp] theorem gpr_enter (s : State) (e : Exc) (v : Word) (r : Reg) :
    (s.enter e v).gpr r = s.gpr r := rfl
@[simp] theorem gpr_postDebug (s : State) (b : Word) (r : Reg) :
    (s.postDebug b).gpr r = s.gpr r := rfl
@[simp] theorem gpr_putBytes (s : State) (a : Word) (l : List Byte) (r : Reg) :
    (s.putBytes a l).gpr r = s.gpr r := rfl
@[simp] theorem gpr_failStore (s : State) (a : Word) (w : Width) (r : Reg) :
    (s.failStore a w).gpr r = s.gpr r := rfl

/-- A write to a register keeps x[0]'s slot at zero. -/
theorem writeGpr_zero_slot (s : State) (r : Reg) (v : Word) :
    (s.writeGpr r v).regs[0] = s.regs[0] := by
  by_cases hr : r = 0#5
  · simp [State.writeGpr, hr]
  · have : r.toNat ≠ 0 := fun h => hr (BitVec.eq_of_toNat_eq h)
    simp [State.writeGpr, hr, this]

/-- An operand with no load delay on its register is the register. -/
theorem operand_of_no_delay (s : State) (u : FreeUse) (r : Reg) (h : s.loadDelay ≠ some r) :
    s.operand u r = s.gpr r := by
  simp [State.operand, h]

/-! ### Branches -/

/-- A branch goes on only outside a delay slot, and then only records its decision. -/
theorem branch_next {s t : State} {b : Bool} {g : Word} (h : s.branch b g = .next t) :
    s.delay = .none ∧ t = s.retire (.slot b g) := by
  unfold State.branch at h
  split at h
  · exact ⟨‹_›, by cases h; rfl⟩
  · cases h

theorem branch_of_none {s : State} (b : Bool) (g : Word) (h : s.delay = .none) :
    s.branch b g = .next (s.retire (.slot b g)) := by
  simp [State.branch, h]

theorem branch_of_slot {s : State} {b' : Bool} {g' : Word} (b : Bool) (g : Word)
    (h : s.delay = .slot b' g') : s.branch b g = .refused .branchInDelaySlot := by
  simp [State.branch, h]

/-- A coprocessor branch that goes on raises CpU, or branches. -/
theorem copBranch_next {s t : State} {z : BitVec 2} {b : Bool} {imm : Half}
    (h : s.copBranch z b imm = .next t) :
    (s.usable z = false ∧ t = s.raise (.cpU z)) ∨
    (s.usable z = true ∧ s.delay = .none ∧
      t = s.retire (.slot (s.cpcond z == b) (s.branchTarget imm))) := by
  unfold State.copBranch at h
  split at h
  · exact .inr ⟨‹_›, branch_next h⟩
  · exact .inl ⟨by simpa using ‹¬ s.usable z = true›, by cases h; rfl⟩

/-! ### HI and LO -/

/-- The distance of R168, as a proposition. -/
theorem mayWriteHiLo_iff {s : State} :
    s.mayWriteHiLo = true ↔ s.hiloGuard = 0 ∧ s.pc.toNat ∉ s.hiloFollowers := by
  simp [State.mayWriteHiLo]

/-- The addresses remembered once an MFHI or MFLO has executed. -/
theorem mem_followersAfterRead {s : State} {x : Nat} :
    x ∈ s.followersAfterRead ↔
      x ∈ s.hiloFollowers ∨ x = s.nextPc.toNat ∨ x = (s.nextPc + 4#32).toNat := by
  simp only [State.followersAfterRead, mem_insertAddress]
  tauto

theorem followersAfterRead_wf {s : State} (h : addressesWf s.hiloFollowers) :
    addressesWf s.followersAfterRead :=
  insertAddress_wf (insertAddress_wf h s.nextPc.isLt) (s.nextPc + 4#32).isLt

/-- A writer of HI and LO goes on only outside the distance of R168. -/
theorem writeHiLo_next {s t : State} {hi lo : Word} (h : s.writeHiLo hi lo = .next t) :
    s.mayWriteHiLo = true ∧ t = { s with hi := hi, lo := lo }.advance := by
  unfold State.writeHiLo at h
  split at h
  · exact ⟨‹_›, by cases h; rfl⟩
  · cases h

/-! ### Data accesses -/

/-- The three ways the checks before a data access end. -/
theorem checkAccess_cases (s : State) (ea : Word) (w : Width) (store : Bool) :
    (s.addressError ea w.bytes = true ∧ s.checkAccess ea w store =
      .stop (.next (s.raise (if store then .adES ea else .adEL ea)))) ∨
    (s.addressError ea w.bytes = false ∧ s.isc = true ∧
      s.checkAccess ea w store = .stop (.refused .cacheIsolated)) ∨
    (s.addressError ea w.bytes = false ∧ s.isc = false ∧ s.dataHitBits ea store ≠ 0#32 ∧
      s.debugTraps = true ∧ s.checkAccess ea w store =
        .stop (.next (s.postDebug (s.dataHitBits ea store)).raiseDebug)) ∨
    (s.addressError ea w.bytes = false ∧ s.isc = false ∧
      (s.dataHitBits ea store = 0#32 ∨ s.debugTraps = false) ∧
      s.checkAccess ea w store = .done (s.postDebug (s.dataHitBits ea store)) ()) := by
  have ht : s.dataHitBits ea store ≠ 0#32 →
      (s.postDebug (s.dataHitBits ea store)).debugTraps = s.debugTraps := by
    intro hb
    simp only [State.debugTraps, postDebug_dcic, if_neg hb]
    by_cases hh : s.daHit ea store <;> cases store <;> simp [State.dataHitBits, hh]
  by_cases h1 : s.addressError ea w.bytes
  · exact .inl ⟨h1, by simp [State.checkAccess, h1]⟩
  · by_cases h2 : s.isc
    · exact .inr (.inl ⟨by simpa using h1, h2, by simp [State.checkAccess, h1, h2]⟩)
    · by_cases h3 : s.dataHitBits ea store = 0#32
      · refine .inr (.inr (.inr ⟨by simpa using h1, by simpa using h2, .inl h3, ?_⟩))
        simp [State.checkAccess, h1, h2, h3]
      · by_cases h4 : s.debugTraps
        · refine .inr (.inr (.inl ⟨by simpa using h1, by simpa using h2, h3, h4, ?_⟩))
          simp [State.checkAccess, h1, h2, h3, ht h3, h4]
        · refine .inr (.inr (.inr ⟨by simpa using h1, by simpa using h2,
            .inr (by simpa using h4), ?_⟩))
          simp [State.checkAccess, h1, h2, ht h3, h4]

/-- A load that goes on ends in AdEL, Debug or DBE, or reads its data with the checks passed. -/
theorem load_next {s t : State} {rt rs : Reg} {imm : Half} {w : Width} {ext : Half → Word}
    (h : s.load rt rs imm w ext = .next t) :
    let ea := s.effectiveAddress rs imm
    let p := s.postDebug (s.dataHitBits ea false)
    (s.addressError ea w.bytes = true ∧ t = s.raise (.adEL ea)) ∨
    (s.addressError ea w.bytes = false ∧ (t = p.raiseDebug ∨ t = p.raise .dbe)) ∨
    (s.addressError ea w.bytes = false ∧ s.isc = false ∧
      platformAnswers s.cfg ea.toNat w.bytes .load = true ∧ s.env.berrData = false ∧
      t = p.loadAndAdvance rt (p.readData ea w ext)) := by
  intro ea p
  unfold State.load State.loadData at h
  rcases checkAccess_cases s ea w false with ⟨h1, hc⟩ | ⟨h1, h2, hc⟩ | ⟨h1, h2, h3, h4, hc⟩ |
    ⟨h1, h2, h3, hc⟩
  · rw [hc] at h; cases h; exact .inl ⟨h1, rfl⟩
  · rw [hc] at h; cases h
  · rw [hc] at h; cases h; exact .inr (.inl ⟨h1, .inl rfl⟩)
  · rw [hc] at h
    by_cases h5 : platformAnswers p.cfg ea.toNat w.bytes .load
    · by_cases h6 : p.env.berrData
      · simp only [h5, h6, ea, p] at h; cases h; exact .inr (.inl ⟨h1, .inr rfl⟩)
      · simp only [h5, h6, ea, p] at h; cases h
        exact .inr (.inr ⟨h1, h2, h5, Bool.eq_false_iff.mpr h6, rfl⟩)
    · by_cases h6 : berrPromised p.cfg ea.toNat w.bytes .load
      · simp only [h5, h6, ea, p] at h; cases h; exact .inr (.inl ⟨h1, .inr rfl⟩)
      · simp only [h5, h6, ea, p] at h; cases h

/-- A store that goes on ends in AdES or Debug, or writes its bytes or, its transaction having
failed, free values. -/
theorem store_next {s t : State} {rt rs : Reg} {imm : Half} {w : Width}
    (h : s.store rt rs imm w = .next t) :
    let ea := s.effectiveAddress rs imm
    let p := s.postDebug (s.dataHitBits ea true)
    (s.addressError ea w.bytes = true ∧ t = s.raise (.adES ea)) ∨
    (s.addressError ea w.bytes = false ∧ t = p.raiseDebug) ∨
    (s.addressError ea w.bytes = false ∧ s.isc = false ∧
      (t = (p.failStore ea w).advance ∨
        t = (p.putBytes ea (p.storeBytes w (s.rtVal rt))).advance)) := by
  intro ea p
  unfold State.store State.storeData at h
  rcases checkAccess_cases s ea w true with ⟨h1, hc⟩ | ⟨h1, h2, hc⟩ | ⟨h1, h2, h3, h4, hc⟩ |
    ⟨h1, h2, h3, hc⟩
  · rw [hc] at h; cases h; exact .inl ⟨h1, rfl⟩
  · rw [hc] at h; cases h
  · rw [hc] at h; cases h; exact .inr (.inl ⟨h1, rfl⟩)
  · rw [hc] at h
    by_cases h5 : platformAnswers p.cfg ea.toNat w.bytes .store
    · by_cases h6 : p.env.berrData
      · simp only [h5, h6, ea, p] at h; cases h; exact .inr (.inr ⟨h1, h2, .inl rfl⟩)
      · simp only [h5, h6, ea, p] at h; cases h; exact .inr (.inr ⟨h1, h2, .inr rfl⟩)
    · by_cases h6 : berrPromised p.cfg ea.toNat w.bytes .store
      · simp only [h5, h6, ea, p] at h; cases h; exact .inr (.inr ⟨h1, h2, .inl rfl⟩)
      · simp only [h5, h6, ea, p] at h; cases h

/-- An aligned access of two or four bytes lies inside the address space. -/
theorem access_in_space {s : State} {ea : Word} {w : Width}
    (h : s.addressError ea w.bytes = false) : ea.toNat + w.bytes ≤ 2 ^ 32 := by
  have h4 := ea.isLt
  simp only [State.addressError, Bool.or_eq_false_iff, bne_eq_false_iff_eq] at h
  cases w <;> simp only [Width.bytes] at h ⊢ <;> omega

@[simp] theorem storeBytes_length (s : State) (w : Width) (v : Word) :
    (s.storeBytes w v).length = w.bytes := by
  cases w <;> simp only [State.storeBytes, halfBytes, wordBytes, Width.bytes] <;> split <;> rfl

@[simp] theorem lostBytes_length (s : State) (w : Width) : (s.lostBytes w).length = w.bytes := by
  simp [State.lostBytes]

/-! ### The boundary and the step -/

/-- What a fetch that reads a word has gone through. -/
theorem fetch_done {s t : State} {w : Word} (h : s.fetch = .done t w) :
    s.addressError s.pc 4 = false ∧ t = s.postDebug s.fetchHitBits ∧
      platformAnswers s.cfg s.pc.toNat 4 .fetch = true ∧ s.env.berrFetch = false ∧
      s.storedIn s.pc.toNat 4 = false ∧
      w = s.mem.readWord s.cfg.bigEndian s.pc.toNat := by
  unfold State.fetch at h
  split at h
  · cases h
  · next h1 =>
    dsimp only at h
    split at h
    · cases h
    · split at h
      · split at h <;> cases h
      · next h3 =>
        split at h
        · cases h
        · next h4 =>
          split at h
          · cases h
          · next h5 =>
            cases h
            exact ⟨Bool.eq_false_iff.mpr h1, rfl, by simpa using h3,
              Bool.eq_false_iff.mpr h4, Bool.eq_false_iff.mpr h5, rfl⟩

/-- A fetch that ends the step with a next state takes AdEL, Debug or IBE. -/
theorem fetch_stop_next {s t : State} (h : s.fetch = .stop (.next t)) :
    t = s.raise (.adEL s.pc) ∨
    t = (s.postDebug s.fetchHitBits).raiseDebug ∨
    t = (s.postDebug s.fetchHitBits).raise .ibe := by
  unfold State.fetch at h
  split at h
  · cases h; exact .inl rfl
  · dsimp only at h
    split at h
    · cases h; exact .inr (.inl rfl)
    · split at h
      · split at h <;> cases h; exact .inr (.inr rfl)
      · split at h
        · cases h; exact .inr (.inr rfl)
        · split at h <;> cases h

/-! ### Dependence on a CP0 write (70_reset_and_hazards.md R273) -/

theorem unsettled_eq_true {α : Type} [DecidableEq α] {s : State} {f : State → α} :
    s.unsettled f = true ↔ ∃ v ∈ s.olderViews s.cp0Window, f v ≠ f s := by
  simp [State.unsettled]

/-- Without an open window nothing depends on one. -/
theorem unsettled_of_none {α : Type} [DecidableEq α] {s : State} (h : s.cp0Window = [])
    (f : State → α) : s.unsettled f = false := by
  simp [State.unsettled, h, State.olderViews]

theorem stackUnsettled_of_none {s : State} (h : s.cp0Window = []) (b : Word) :
    s.stackUnsettled b = false := by
  simp [State.stackUnsettled, h]

theorem entryUnsettled_of_none {s : State} (h : s.cp0Window = []) : s.entryUnsettled = false := by
  simp [State.entryUnsettled, unsettled_of_none h, stackUnsettled_of_none h]

/-- What no bit of an open window can change depends on none. -/
theorem unsettled_of_kept {α : Type} [DecidableEq α] {s : State} {f : State → α}
    (h : ∀ c ∈ s.cp0Window, ∀ u : State, f (u.toggleCp0 c.reg c.changed) = f u) :
    s.unsettled f = false := by
  have key : ∀ (l : List Cp0Change) (u : State),
      (∀ c ∈ l, ∀ u : State, f (u.toggleCp0 c.reg c.changed) = f u) →
      ∀ v ∈ u.olderViews l, f v = f u := by
    intro l
    induction l with
    | nil => intro u _ v hv; cases hv
    | cons c l ih =>
      intro u hl v hv
      have hc := hl c (List.mem_cons_self ..) u
      rcases List.mem_cons.mp hv with rfl | hv
      · exact hc
      · exact (ih _ (fun d hd => hl d (List.mem_cons_of_mem _ hd)) v hv).trans hc
  simpa [State.unsettled] using key s.cp0Window s h

theorem unsettled_of_invariant {α : Type} [DecidableEq α] {s : State} {f : State → α}
    (h : ∀ (u : State) (r : Cp0Reg) (b : Word), f (u.toggleCp0 r b) = f u) :
    s.unsettled f = false :=
  unsettled_of_kept fun _ _ _ => h _ _ _

/-- One more instruction: each window counts it, and those it was the last of are closed. -/
theorem mem_windowAfterInstr {c : Cp0Change} {l : List Cp0Change} :
    c ∈ windowAfterInstr l ↔ ∃ d ∈ l, 2 ≤ d.left ∧ c = { d with left := d.left - 1 } := by
  simp only [windowAfterInstr, List.mem_filter, List.mem_map, bne_iff_ne]
  constructor
  · rintro ⟨⟨d, hd, rfl⟩, h⟩
    exact ⟨d, hd, by simp at h; omega, rfl⟩
  · rintro ⟨d, hd, h, rfl⟩
    exact ⟨⟨d, hd, rfl⟩, by simp; omega⟩

/-- The same as one list. -/
theorem windowAfterInstr_eq (l : List Cp0Change) : windowAfterInstr l =
    (l.filter fun c => decide (2 ≤ c.left)).map fun c => { c with left := c.left - 1 } := by
  simp only [windowAfterInstr, List.filter_map]
  congr 1
  refine List.filter_congr fun c _ => ?_
  rw [Bool.eq_iff_iff]
  simp
  omega

/-- An exception entry: the windows stay, but for the bits of the Status stack. -/
theorem mem_windowAfterEntry {c : Cp0Change} {l : List Cp0Change} :
    c ∈ windowAfterEntry l ↔ c.changed ≠ 0#32 ∧ ∃ d ∈ l, c =
      if d.reg = .sr then { d with changed := d.changed &&& ~~~0x3F#32 } else d := by
  simp only [windowAfterEntry, List.mem_filter, List.mem_map, bne_iff_ne]
  exact ⟨fun ⟨⟨d, hd, he⟩, h⟩ => ⟨h, d, hd, he.symm⟩, fun ⟨h, d, hd, he⟩ => ⟨⟨d, hd, he.symm⟩, h⟩⟩

/-- The same as one list. -/
theorem windowAfterEntry_eq (l : List Cp0Change) : windowAfterEntry l =
    (l.map fun c =>
      { c with changed := if c.reg = .sr then c.changed &&& 0xFFFFFFC0#32 else c.changed }).filter
        fun c => decide (c.changed ≠ 0#32) := by
  unfold windowAfterEntry
  congr 1
  · funext c
    rw [Bool.eq_iff_iff]
    simp
  · refine congrArg (List.map · l) (funext fun c => ?_)
    split <;> rfl

/-- A CP0 write opens at most its own window, of bits that changed. -/
theorem mem_openCp0Window {s : State} {r : Cp0Reg} {m : Word} {p : Bool} {c : Cp0Change} :
    c ∈ (s.openCp0Window r m p).cp0Window ↔ c ∈ s.cp0Window ∨
      (m ≠ 0#32 ∧ s.cfg.cp0WriteLatency ≠ 0 ∧ c = ⟨r, m, p, s.cfg.cp0WriteLatency⟩) := by
  by_cases hm : m = 0#32 <;> by_cases hl : s.cfg.cp0WriteLatency = 0 <;>
    simp [State.openCp0Window, hm, hl, or_comm]

theorem instrUnsettled_of_none {s : State} (h : s.cp0Window = []) (i : Instr) :
    s.instrUnsettled i = false := by
  cases i <;> first
    | rfl
    | exact unsettled_of_none h _
    | simp [State.instrUnsettled, unsettled_of_none h, stackUnsettled_of_none h]

theorem wordUnsettled_of_none {s : State} (h : s.cp0Window = []) (w : Word) :
    s.wordUnsettled w = false := by
  unfold State.wordUnsettled
  split
  · exact instrUnsettled_of_none h _
  · split
    · exact unsettled_of_none h _
    · rfl

/-- An outcome that passes the check of an entry is the outcome itself. -/
theorem checkEntry_next {s t : State} {r : Result} (h : s.checkEntry r = .next t) :
    r = .next t ∧ (s.entryUnsettled = false ∨ t.arrival ≠ .vector) := by
  cases r with
  | next u =>
    simp only [State.checkEntry] at h
    split at h
    · cases h
    · next hc =>
      cases h
      refine ⟨rfl, ?_⟩
      cases hv : s.entryUnsettled
      · exact .inl rfl
      · exact .inr (by simpa [hv] using hc)
  | fault f => cases h
  | refused x => cases h

theorem checkEntry_of_settled {s : State} (h : s.entryUnsettled = false) (r : Result) :
    s.checkEntry r = r := by
  cases r <;> simp [State.checkEntry, h]

theorem checkedFetch_done {s t : State} {w : Word} (h : s.checkedFetch = .done t w) :
    s.unsettled State.fetchOutlook = false ∧ s.fetch = .done t w := by
  unfold State.checkedFetch at h
  split at h
  · cases h
  · next hu =>
    refine ⟨by simpa using hu, ?_⟩
    split at h
    · cases h
    · next hf => rw [hf]; exact h

theorem checkedFetch_stop_next {s t : State} (h : s.checkedFetch = .stop (.next t)) :
    s.fetch = .stop (.next t) := by
  unfold State.checkedFetch at h
  split at h
  · cases h
  · split at h
    · next r hf =>
      rw [hf]
      have h' := Access.stop.inj h
      rw [(checkEntry_next h').1]
    · cases h

/-- A fetch that depends on no open window, and neither do its exceptions. -/
theorem checkedFetch_of_settled {s : State} (h : s.unsettled State.fetchOutlook = false)
    (hv : s.entryUnsettled = false) : s.checkedFetch = s.fetch := by
  unfold State.checkedFetch
  rw [h]
  cases s.fetch with
  | done t w => rfl
  | stop r => simp [checkEntry_of_settled hv]

/-- The boundary reads the word at `pc`, or takes an exception on it. -/
theorem fetchPhase_cases (s : State) :
    (∃ t w, s.fetchPhase = .done t w ∧ s.wrapped = false ∧
      s.unsettled State.fetchOutlook = false ∧ s.fetch = .done t w) ∨
    (∃ t, s.fetchPhase = .stop (.next t) ∧
      (t = { s with pendingStoreErrors := s.pendingStoreErrors - 1 }.raise .dbe ∨
        (s.interruptTaken = true ∧ t = s.raise .int) ∨ s.fetch = .stop (.next t))) ∨
    (∃ f, s.fetchPhase = .stop (.fault f)) ∨ (∃ f, s.fetchPhase = .stop (.refused f)) := by
  unfold State.fetchPhase
  by_cases h1 : s.wrapped
  · exact .inr (.inr (.inr ⟨.fetchPastTop, by simp only [h1, if_true]⟩))
  · by_cases h2 : s.storeErrorDue
    · exact .inr (.inl ⟨_, by simp only [h1, h2, if_true]; rfl, .inl rfl⟩)
    · by_cases h3 : s.interruptTaken
      · exact .inr (.inl ⟨_, by simp only [h1, h2, h3, if_true]; rfl, .inr (.inl ⟨h3, rfl⟩)⟩)
      · simp only [h1, h2, h3]
        cases h : s.checkedFetch with
        | done t w => exact .inl ⟨t, w, rfl, by simp, checkedFetch_done h⟩
        | stop r =>
          cases r with
          | next t => exact .inr (.inl ⟨t, rfl, .inr (.inr (checkedFetch_stop_next h))⟩)
          | fault f => exact .inr (.inr (.inl ⟨f, rfl⟩))
          | refused f => exact .inr (.inr (.inr ⟨f, rfl⟩))

/-- A word outside the table that does not stop the machine raises CpU or RI. -/
theorem undecoded_next {s t : State} {w : Word} (h : s.undecoded w = .next t) :
    (∃ z, t = s.raise (.cpU z)) ∨ t = s.raise .ri := by
  unfold State.undecoded at h
  split at h
  · split at h
    · cases h; exact .inl ⟨_, rfl⟩
    · split at h
      · cases h; exact .inr rfl
      · cases h
  · split at h
    · cases h; exact .inr rfl
    · cases h

/-- A step that goes on ran its boundary to a next state. -/
theorem settleEnv_next {r : Result} {t : State} (h : settleEnv r = .next t) :
    ∃ u, r = .next u ∧ t = u.nextEnv := by
  cases r with
  | next u => exact ⟨u, rfl, (Host.Outcome.next.inj h).symm⟩
  | fault f => exact absurd h (by simp [settleEnv])
  | refused f => exact absurd h (by simp [settleEnv])

/-- A fetched word that goes on has its meaning and depends on no open window. -/
theorem runWord_next {s t : State} {w : Word} (h : runWord s w = .next t) :
    meaning s w = .next t ∧ s.wordUnsettled w = false ∧
      (s.entryUnsettled = false ∨ t.arrival ≠ .vector) := by
  unfold runWord at h
  split at h
  · cases h
  · next hu =>
    obtain ⟨h1, h2⟩ := checkEntry_next h
    exact ⟨h1, by simpa using hu, h2⟩

/-- Everything a boundary that goes on can be. -/
theorem runBoundary_next {s u : State} (h : runBoundary s = .next u) :
    (∃ p e, u = State.raise p e ∧
      (p = s ∨ p = { s with pendingStoreErrors := s.pendingStoreErrors - 1 } ∨
        p = s.postDebug s.fetchHitBits)) ∨
    u = (s.postDebug s.fetchHitBits).raiseDebug ∨
    (∃ p w, s.fetch = .done p w ∧
      ((∃ i, decode w = .ok i ∧ exec i p = .next u) ∨ p.undecoded w = .next u)) := by
  unfold runBoundary at h
  rcases fetchPhase_cases s with ⟨p, w, hp, -, -, hf⟩ | ⟨q, hp, hq⟩ | ⟨f, hp⟩ | ⟨f, hp⟩
  · rw [hp] at h
    refine .inr (.inr ⟨p, w, hf, ?_⟩)
    replace h := (runWord_next h).1
    unfold meaning at h
    split at h
    · exact .inl ⟨_, ‹_›, h⟩
    · exact .inr h
  · rw [hp] at h
    obtain rfl : q = u := Host.Outcome.next.inj h
    rcases hq with h1 | ⟨-, h1⟩ | h1
    · exact .inl ⟨_, _, h1, .inr (.inl rfl)⟩
    · exact .inl ⟨_, _, h1, .inl rfl⟩
    · rcases fetch_stop_next h1 with h1 | h1 | h1
      · exact .inl ⟨_, _, h1, .inl rfl⟩
      · exact .inr (.inl h1)
      · exact .inl ⟨_, _, h1, .inr (.inr rfl)⟩
  · simp [hp] at h
  · simp [hp] at h

/-- Everything a step that goes on can be: a reset event, or a boundary that goes on. -/
theorem step_next {s t : State} (h : step s = .next t) :
    (∃ ev, s.env.reset = some ev ∧ t = (s.resetBy ev).nextEnv) ∨
    (s.env.reset = none ∧ ∃ u, runBoundary s.notePar = .next u ∧ t = u.nextEnv) := by
  unfold step at h
  split at h
  · exact .inl ⟨_, ‹_›, (Host.Outcome.next.inj h).symm⟩
  · exact .inr ⟨‹_›, settleEnv_next h⟩

/-! ### ReservedOpcode (30_encoding.md R88) -/

/-- The words a major pattern matches are those with its major operation code. -/
theorem majorPattern_matches (w : Word) (op : BitVec 6) :
    (w &&& (majorPattern op).mask == (majorPattern op).value) = (opField w == op) := by
  have hw : w &&& 0xFC000000#32 = opField w ++ 0#26 := by
    apply BitVec.eq_of_getLsbD_eq
    intro i hi
    simp only [BitVec.getLsbD_and, BitVec.getLsbD_append, opField, BitVec.getLsbD_extractLsb']
    interval_cases i <;> simp
  show (w &&& 0xFC000000#32 == op ++ 0#26) = _
  rw [hw, Bool.eq_iff_iff, beq_iff_eq, beq_iff_eq]
  refine ⟨fun h => BitVec.eq_of_toNat_eq ?_, fun h => by rw [h]⟩
  have := congrArg BitVec.toNat h
  simp only [toNat_append_eq] at this
  omega

/-- The words a minor pattern matches are those of SPECIAL with its minor opcode. -/
theorem minorPattern_matches (w : Word) (f : BitVec 6) :
    (w &&& (minorPattern f).mask == (minorPattern f).value) =
      (opField w == 0#6 && functField w == f) := by
  have hw : w &&& 0xFC00003F#32 = opField w ++ 0#20 ++ functField w := by
    apply BitVec.eq_of_getLsbD_eq
    intro i hi
    simp only [BitVec.getLsbD_and, BitVec.getLsbD_append, opField, functField,
      BitVec.getLsbD_extractLsb']
    interval_cases i <;> simp
  show (w &&& 0xFC00003F#32 == 0#26 ++ f) = _
  rw [hw, Bool.eq_iff_iff, Bool.and_eq_true, beq_iff_eq, beq_iff_eq, beq_iff_eq]
  constructor
  · intro h
    have := congrArg BitVec.toNat h
    simp only [toNat_append_eq, BitVec.toNat_ofNat] at this
    have hz : (0#6).toNat = 0 := rfl
    exact ⟨BitVec.eq_of_toNat_eq (by omega), BitVec.eq_of_toNat_eq (by omega)⟩
  · rintro ⟨h1, h2⟩; rw [h1, h2]; rfl

/-- The default of `ReservedOpcode`: the holes of the map by major operation code, and under SPECIAL
by minor opcode. -/
theorem reservedOpcode_default {c : Config} (h : c.reservedWords = defaultReservedWords)
    (w : Word) :
    reservedOpcode c w =
      ([20, 21, 22, 23, 24, 25, 26, 27, 28, 29, 30, 31, 39, 44, 45, 47, 52, 53, 54, 55, 60, 61,
          62, 63].contains (opField w) ||
        (opField w == 0#6 && [1, 5, 10, 11, 14, 15, 20, 21, 22, 23, 28, 29, 30, 31, 40, 41, 44,
          45, 46, 47, 48, 49, 50, 51, 52, 53, 54, 55, 56, 57, 58, 59, 60, 61, 62,
          63].contains (functField w))) := by
  simp only [reservedOpcode, h, defaultReservedWords, List.any_append, List.any_map,
    Function.comp_def, majorPattern_matches, minorPattern_matches, List.contains_eq_any_beq]
  cases opField w == 0#6 <;> simp
end Sys2Proof.Machine
end

