-- ==== Sys2Proof/Laws/Exec.lean ====
section
/-! SUPPORT. Once, everything an instruction that goes on can do to the state. A claim about all
instructions is a case analysis of `Effect`. -/

namespace Sys2Proof.Machine

/-- The states an instruction can lead to from `s`. -/
inductive Effect (s : State) : State → Prop where
  | entry (e : Exc) : Effect s (s.raise e)
  | accessEntry (ea : Word) (store : Bool) (e : Exc) :
    Effect s ((s.postDebug (s.dataHitBits ea store)).raise e)
  | accessDebug (ea : Word) (store : Bool) :
    Effect s (s.postDebug (s.dataHitBits ea store)).raiseDebug
  | write (r : Reg) (v : Word) : Effect s (s.writeAndAdvance r v)
  | moveFromHiLo (r : Reg) (v : Word) :
    Effect s { s.writeAndAdvance r v with
      hiloGuard := 2
      hiloFollowers := s.followersAfterRead }
  | load (ea : Word) (r : Reg) (v : Word) :
    Effect s ((s.postDebug (s.dataHitBits ea false)).loadAndAdvance r v)
  | readCp0 (r : Reg) (v : Word) : Effect s (s.loadAndAdvance r v)
  | store (ea : Word) (w : Width) (bs : List Byte) (h : s.addressError ea w.bytes = false)
    (hl : bs.length = w.bytes) :
    Effect s ((s.postDebug (s.dataHitBits ea true)).putBytes ea bs).advance
  | failStore (ea : Word) (w : Width) (h : s.addressError ea w.bytes = false) :
    Effect s ((s.postDebug (s.dataHitBits ea true)).failStore ea w).advance
  | branch (b : Bool) (g : Word) (h : s.delay = .none) : Effect s (s.retire (.slot b g))
  | link (r : Reg) (v : Word) (b : Bool) (g : Word) (h : s.delay = .none) :
    Effect s ((s.writeGpr r v).retire (.slot b g))
  | hiLo (hi lo : Word) (h : s.mayWriteHiLo = true) :
    Effect s { s with hi := hi, lo := lo }.advance
  | nop : Effect s s.advance
  | writeCp0 (r : Cp0Reg) (v : Word) (h : s.usable 0#2 = true) :
    Effect s (s.moveToCp0 r v)
  | popStatus (h : s.usable 0#2 = true) : Effect s s.restoreStatus

variable {s t : State}

theorem effect_write {r : Reg} {v : Word} (h : Host.Outcome.next (s.writeAndAdvance r v) =
    (.next t : Result)) : Effect s t :=
  Host.Outcome.next.inj h ▸ .write r v

theorem effect_trapping {c : Bool} {r : Reg} {v : Word}
    (h : (if c then .next (s.raise .ovf) else .next (s.writeAndAdvance r v)) =
      (.next t : Result)) : Effect s t := by
  split at h
  · exact Host.Outcome.next.inj h ▸ .entry .ovf
  · exact effect_write h

theorem effect_load {rt rs : Reg} {imm : Half} {w : Width} {ext : Half → Word}
    (h : s.load rt rs imm w ext = .next t) : Effect s t := by
  rcases load_next h with ⟨-, rfl⟩ | ⟨-, rfl | rfl⟩ | ⟨-, -, -, -, rfl⟩
  · exact .entry _
  · exact .accessDebug _ false
  · exact .accessEntry _ false _
  · exact .load _ _ _

theorem effect_store {rt rs : Reg} {imm : Half} {w : Width}
    (h : s.store rt rs imm w = .next t) : Effect s t := by
  rcases store_next h with ⟨-, rfl⟩ | ⟨-, rfl⟩ | ⟨ha, -, rfl | rfl⟩
  · exact .entry _
  · exact .accessDebug _ true
  · exact .failStore _ w ha
  · exact .store _ w _ ha (storeBytes_length _ _ _)

theorem effect_branch {b : Bool} {g : Word} (h : s.branch b g = .next t) : Effect s t := by
  obtain ⟨hd, rfl⟩ := branch_next h
  exact .branch b g hd

theorem effect_link {r : Reg} {v : Word} {b : Bool} {g : Word}
    (h : (s.writeGpr r v).branch b g = .next t) : Effect s t := by
  obtain ⟨hd, rfl⟩ := branch_next h
  exact .link r v b g hd

theorem effect_copBranch {z : BitVec 2} {b : Bool} {imm : Half}
    (h : s.copBranch z b imm = .next t) : Effect s t := by
  rcases copBranch_next h with ⟨-, rfl⟩ | ⟨-, hd, rfl⟩
  · exact .entry _
  · exact .branch _ _ hd

theorem effect_hiLo {hi lo : Word} (h : s.writeHiLo hi lo = .next t) : Effect s t := by
  obtain ⟨hg, rfl⟩ := writeHiLo_next h
  exact .hiLo hi lo hg

/-- Everything an instruction that goes on can do. -/
theorem exec_effect {i : Instr} (h : exec i s = .next t) : Effect s t := by
  cases i with
  | sll | srl | sllv | addu | subu | and | or | addiu | andi | ori | lui => exact effect_write h
  | add | sub | addi => exact effect_trapping h
  | mfhi | mflo => exact Host.Outcome.next.inj h ▸ .moveFromHiLo _ _
  | mthi | mtlo | mult | multu => exact effect_hiLo h
  | div rs rt =>
    simp only [exec, execDiv] at h
    split at h <;> exact effect_hiLo h
  | divu rs rt =>
    simp only [exec, execDivu] at h
    split at h <;> exact effect_hiLo h
  | lh | lw | lhu => exact effect_load h
  | sh | sw => exact effect_store h
  | jr | bgez | j | beq | bne => exact effect_branch h
  | jal => exact effect_link h
  | jalr rd rs =>
    simp only [exec, execJalr] at h
    split at h
    · exact absurd h (by simp)
    · exact effect_link h
  | bc0f | bc0t | bc1f | bc1t | bc2f | bc2t | bc3f | bc3t => exact effect_copBranch h
  | syscall | brk => exact Host.Outcome.next.inj h ▸ .entry _
  | mfc0 rt rd =>
    simp only [exec, execMfc0] at h
    split at h
    · split at h
      · exact Host.Outcome.next.inj h ▸ .entry _
      · exact Host.Outcome.next.inj h ▸ .nop
      · exact Host.Outcome.next.inj h ▸ .readCp0 _ _
    · exact Host.Outcome.next.inj h ▸ .entry _
  | mtc0 rt rd =>
    simp only [exec, execMtc0] at h
    split at h
    · next hu =>
      split at h
      · exact Host.Outcome.next.inj h ▸ .entry _
      · exact Host.Outcome.next.inj h ▸ .nop
      · exact Host.Outcome.next.inj h ▸ .writeCp0 _ _ hu
    · exact Host.Outcome.next.inj h ▸ .entry _
  | rfe =>
    simp only [exec, execRfe] at h
    split at h
    · exact Host.Outcome.next.inj h ▸ .popStatus ‹_›
    · exact Host.Outcome.next.inj h ▸ .entry _

end Sys2Proof.Machine
end

