-- ==== Sys2Proof/Laws/PerInstr.lean ====
section
/-! SUPPORT. One lemma per instruction: its word lies in its row of the opcode map. The columns
mask and match are written out here from 30_encoding.md R85. -/

namespace Sys2Proof

/-- The columns mask and match of 30_encoding.md R85. -/
def Laws.TableRow.row : Instr → Word × Word
  | .sll _ _ _ => (0xFFE0003F#32, 0x00000000#32)
  | .srl _ _ _ => (0xFFE0003F#32, 0x00000002#32)
  | .sllv _ _ _ => (0xFC0007FF#32, 0x00000004#32)
  | .add _ _ _ => (0xFC0007FF#32, 0x00000020#32)
  | .addu _ _ _ => (0xFC0007FF#32, 0x00000021#32)
  | .sub _ _ _ => (0xFC0007FF#32, 0x00000022#32)
  | .subu _ _ _ => (0xFC0007FF#32, 0x00000023#32)
  | .and _ _ _ => (0xFC0007FF#32, 0x00000024#32)
  | .or _ _ _ => (0xFC0007FF#32, 0x00000025#32)
  | .addi _ _ _ => (0xFC000000#32, 0x20000000#32)
  | .addiu _ _ _ => (0xFC000000#32, 0x24000000#32)
  | .andi _ _ _ => (0xFC000000#32, 0x30000000#32)
  | .ori _ _ _ => (0xFC000000#32, 0x34000000#32)
  | .lui _ _ => (0xFFE00000#32, 0x3C000000#32)
  | .mfhi _ => (0xFFFF07FF#32, 0x00000010#32)
  | .mthi _ => (0xFC1FFFFF#32, 0x00000011#32)
  | .mflo _ => (0xFFFF07FF#32, 0x00000012#32)
  | .mtlo _ => (0xFC1FFFFF#32, 0x00000013#32)
  | .mult _ _ => (0xFC00FFFF#32, 0x00000018#32)
  | .multu _ _ => (0xFC00FFFF#32, 0x00000019#32)
  | .div _ _ => (0xFC00FFFF#32, 0x0000001A#32)
  | .divu _ _ => (0xFC00FFFF#32, 0x0000001B#32)
  | .lh _ _ _ => (0xFC000000#32, 0x84000000#32)
  | .lw _ _ _ => (0xFC000000#32, 0x8C000000#32)
  | .lhu _ _ _ => (0xFC000000#32, 0x94000000#32)
  | .sh _ _ _ => (0xFC000000#32, 0xA4000000#32)
  | .sw _ _ _ => (0xFC000000#32, 0xAC000000#32)
  | .jr _ => (0xFC1FFFFF#32, 0x00000008#32)
  | .jalr _ _ => (0xFC1F07FF#32, 0x00000009#32)
  | .bgez _ _ => (0xFC1F0000#32, 0x04010000#32)
  | .j _ => (0xFC000000#32, 0x08000000#32)
  | .jal _ => (0xFC000000#32, 0x0C000000#32)
  | .beq _ _ _ => (0xFC000000#32, 0x10000000#32)
  | .bne _ _ _ => (0xFC000000#32, 0x14000000#32)
  | .bc0f _ => (0xFFFF0000#32, 0x41000000#32)
  | .bc0t _ => (0xFFFF0000#32, 0x41010000#32)
  | .bc1f _ => (0xFFFF0000#32, 0x45000000#32)
  | .bc1t _ => (0xFFFF0000#32, 0x45010000#32)
  | .bc2f _ => (0xFFFF0000#32, 0x49000000#32)
  | .bc2t _ => (0xFFFF0000#32, 0x49010000#32)
  | .bc3f _ => (0xFFFF0000#32, 0x4D000000#32)
  | .bc3t _ => (0xFFFF0000#32, 0x4D010000#32)
  | .syscall _ => (0xFC00003F#32, 0x0000000C#32)
  | .brk _ => (0xFC00003F#32, 0x0000000D#32)
  | .mfc0 _ _ => (0xFFE007FF#32, 0x40000000#32)
  | .mtc0 _ _ => (0xFFE007FF#32, 0x40800000#32)
  | .rfe => (0xFFFFFFFF#32, 0x42000010#32)

/-- `w & mask = match` for the word of an instruction (30_encoding.md R85). -/
def Laws.TableRow.Statement (i : Instr) : Prop :=
  encode i &&& (Laws.TableRow.row i).1 = (Laws.TableRow.row i).2

theorem Laws.TableRow.sll (rd rt shamt : Reg) :
    Laws.TableRow.Statement (.sll rd rt shamt) := by
  refine (encodeR_and _ 63#6 _ 63#6 _ 31#5 _ 0#5 _ 0#5 _
    0#5).trans ?_
  simp only [BitVec.and_zero]
  rfl

theorem Laws.TableRow.srl (rd rt shamt : Reg) :
    Laws.TableRow.Statement (.srl rd rt shamt) := by
  refine (encodeR_and _ 63#6 _ 63#6 _ 31#5 _ 0#5 _ 0#5 _
    0#5).trans ?_
  simp only [BitVec.and_zero]
  rfl

theorem Laws.TableRow.sllv (rd rt rs : Reg) :
    Laws.TableRow.Statement (.sllv rd rt rs) := by
  refine (encodeR_and _ 63#6 _ 63#6 _ 0#5 _ 0#5 _ 0#5 _
    31#5).trans ?_
  simp only [BitVec.and_zero]
  rfl

theorem Laws.TableRow.add (rd rs rt : Reg) :
    Laws.TableRow.Statement (.add rd rs rt) := by
  refine (encodeR_and _ 63#6 _ 63#6 _ 0#5 _ 0#5 _ 0#5 _
    31#5).trans ?_
  simp only [BitVec.and_zero]
  rfl

theorem Laws.TableRow.addu (rd rs rt : Reg) :
    Laws.TableRow.Statement (.addu rd rs rt) := by
  refine (encodeR_and _ 63#6 _ 63#6 _ 0#5 _ 0#5 _ 0#5 _
    31#5).trans ?_
  simp only [BitVec.and_zero]
  rfl

theorem Laws.TableRow.sub (rd rs rt : Reg) :
    Laws.TableRow.Statement (.sub rd rs rt) := by
  refine (encodeR_and _ 63#6 _ 63#6 _ 0#5 _ 0#5 _ 0#5 _
    31#5).trans ?_
  simp only [BitVec.and_zero]
  rfl

theorem Laws.TableRow.subu (rd rs rt : Reg) :
    Laws.TableRow.Statement (.subu rd rs rt) := by
  refine (encodeR_and _ 63#6 _ 63#6 _ 0#5 _ 0#5 _ 0#5 _
    31#5).trans ?_
  simp only [BitVec.and_zero]
  rfl

theorem Laws.TableRow.and (rd rs rt : Reg) :
    Laws.TableRow.Statement (.and rd rs rt) := by
  refine (encodeR_and _ 63#6 _ 63#6 _ 0#5 _ 0#5 _ 0#5 _
    31#5).trans ?_
  simp only [BitVec.and_zero]
  rfl

theorem Laws.TableRow.or (rd rs rt : Reg) :
    Laws.TableRow.Statement (.or rd rs rt) := by
  refine (encodeR_and _ 63#6 _ 63#6 _ 0#5 _ 0#5 _ 0#5 _
    31#5).trans ?_
  simp only [BitVec.and_zero]
  rfl

theorem Laws.TableRow.addi (rt rs : Reg) (imm : Half) :
    Laws.TableRow.Statement (.addi rt rs imm) := by
  refine (encodeI_and _ 63#6 _ 0#5 _ 0#5 _ 0#16).trans ?_
  simp only [BitVec.and_zero]
  rfl

theorem Laws.TableRow.addiu (rt rs : Reg) (imm : Half) :
    Laws.TableRow.Statement (.addiu rt rs imm) := by
  refine (encodeI_and _ 63#6 _ 0#5 _ 0#5 _ 0#16).trans ?_
  simp only [BitVec.and_zero]
  rfl

theorem Laws.TableRow.andi (rt rs : Reg) (imm : Half) :
    Laws.TableRow.Statement (.andi rt rs imm) := by
  refine (encodeI_and _ 63#6 _ 0#5 _ 0#5 _ 0#16).trans ?_
  simp only [BitVec.and_zero]
  rfl

theorem Laws.TableRow.ori (rt rs : Reg) (imm : Half) :
    Laws.TableRow.Statement (.ori rt rs imm) := by
  refine (encodeI_and _ 63#6 _ 0#5 _ 0#5 _ 0#16).trans ?_
  simp only [BitVec.and_zero]
  rfl

theorem Laws.TableRow.lui (rt : Reg) (imm : Half) :
    Laws.TableRow.Statement (.lui rt imm) := by
  refine (encodeI_and _ 63#6 _ 31#5 _ 0#5 _ 0#16).trans ?_
  simp only [BitVec.and_zero]
  rfl

theorem Laws.TableRow.mfhi (rd : Reg) :
    Laws.TableRow.Statement (.mfhi rd) := by
  refine (encodeR_and _ 63#6 _ 63#6 _ 31#5 _ 31#5 _ 0#5 _
    31#5).trans ?_
  simp only [BitVec.and_zero]
  rfl

theorem Laws.TableRow.mthi (rs : Reg) :
    Laws.TableRow.Statement (.mthi rs) := by
  refine (encodeR_and _ 63#6 _ 63#6 _ 0#5 _ 31#5 _ 31#5 _
    31#5).trans ?_
  simp only [BitVec.and_zero]
  rfl

theorem Laws.TableRow.mflo (rd : Reg) :
    Laws.TableRow.Statement (.mflo rd) := by
  refine (encodeR_and _ 63#6 _ 63#6 _ 31#5 _ 31#5 _ 0#5 _
    31#5).trans ?_
  simp only [BitVec.and_zero]
  rfl

theorem Laws.TableRow.mtlo (rs : Reg) :
    Laws.TableRow.Statement (.mtlo rs) := by
  refine (encodeR_and _ 63#6 _ 63#6 _ 0#5 _ 31#5 _ 31#5 _
    31#5).trans ?_
  simp only [BitVec.and_zero]
  rfl

theorem Laws.TableRow.mult (rs rt : Reg) :
    Laws.TableRow.Statement (.mult rs rt) := by
  refine (encodeR_and _ 63#6 _ 63#6 _ 0#5 _ 0#5 _ 31#5 _
    31#5).trans ?_
  simp only [BitVec.and_zero]
  rfl

theorem Laws.TableRow.multu (rs rt : Reg) :
    Laws.TableRow.Statement (.multu rs rt) := by
  refine (encodeR_and _ 63#6 _ 63#6 _ 0#5 _ 0#5 _ 31#5 _
    31#5).trans ?_
  simp only [BitVec.and_zero]
  rfl

theorem Laws.TableRow.div (rs rt : Reg) :
    Laws.TableRow.Statement (.div rs rt) := by
  refine (encodeR_and _ 63#6 _ 63#6 _ 0#5 _ 0#5 _ 31#5 _
    31#5).trans ?_
  simp only [BitVec.and_zero]
  rfl

theorem Laws.TableRow.divu (rs rt : Reg) :
    Laws.TableRow.Statement (.divu rs rt) := by
  refine (encodeR_and _ 63#6 _ 63#6 _ 0#5 _ 0#5 _ 31#5 _
    31#5).trans ?_
  simp only [BitVec.and_zero]
  rfl

theorem Laws.TableRow.lh (rt rs : Reg) (imm : Half) :
    Laws.TableRow.Statement (.lh rt rs imm) := by
  refine (encodeI_and _ 63#6 _ 0#5 _ 0#5 _ 0#16).trans ?_
  simp only [BitVec.and_zero]
  rfl

theorem Laws.TableRow.lw (rt rs : Reg) (imm : Half) :
    Laws.TableRow.Statement (.lw rt rs imm) := by
  refine (encodeI_and _ 63#6 _ 0#5 _ 0#5 _ 0#16).trans ?_
  simp only [BitVec.and_zero]
  rfl

theorem Laws.TableRow.lhu (rt rs : Reg) (imm : Half) :
    Laws.TableRow.Statement (.lhu rt rs imm) := by
  refine (encodeI_and _ 63#6 _ 0#5 _ 0#5 _ 0#16).trans ?_
  simp only [BitVec.and_zero]
  rfl

theorem Laws.TableRow.sh (rt rs : Reg) (imm : Half) :
    Laws.TableRow.Statement (.sh rt rs imm) := by
  refine (encodeI_and _ 63#6 _ 0#5 _ 0#5 _ 0#16).trans ?_
  simp only [BitVec.and_zero]
  rfl

theorem Laws.TableRow.sw (rt rs : Reg) (imm : Half) :
    Laws.TableRow.Statement (.sw rt rs imm) := by
  refine (encodeI_and _ 63#6 _ 0#5 _ 0#5 _ 0#16).trans ?_
  simp only [BitVec.and_zero]
  rfl

theorem Laws.TableRow.jr (rs : Reg) :
    Laws.TableRow.Statement (.jr rs) := by
  refine (encodeR_and _ 63#6 _ 63#6 _ 0#5 _ 31#5 _ 31#5 _
    31#5).trans ?_
  simp only [BitVec.and_zero]
  rfl

theorem Laws.TableRow.jalr (rd rs : Reg) :
    Laws.TableRow.Statement (.jalr rd rs) := by
  refine (encodeR_and _ 63#6 _ 63#6 _ 0#5 _ 31#5 _ 0#5 _
    31#5).trans ?_
  simp only [BitVec.and_zero]
  rfl

theorem Laws.TableRow.bgez (rs : Reg) (imm : Half) :
    Laws.TableRow.Statement (.bgez rs imm) := by
  refine (encodeI_and _ 63#6 _ 0#5 _ 31#5 _ 0#16).trans ?_
  simp only [BitVec.and_zero]
  rfl

theorem Laws.TableRow.j (target : BitVec 26) :
    Laws.TableRow.Statement (.j target) := by
  refine (encodeJ_and _ 63#6 _ 0#26).trans ?_
  simp only [BitVec.and_zero]
  rfl

theorem Laws.TableRow.jal (target : BitVec 26) :
    Laws.TableRow.Statement (.jal target) := by
  refine (encodeJ_and _ 63#6 _ 0#26).trans ?_
  simp only [BitVec.and_zero]
  rfl

theorem Laws.TableRow.beq (rs rt : Reg) (imm : Half) :
    Laws.TableRow.Statement (.beq rs rt imm) := by
  refine (encodeI_and _ 63#6 _ 0#5 _ 0#5 _ 0#16).trans ?_
  simp only [BitVec.and_zero]
  rfl

theorem Laws.TableRow.bne (rs rt : Reg) (imm : Half) :
    Laws.TableRow.Statement (.bne rs rt imm) := by
  refine (encodeI_and _ 63#6 _ 0#5 _ 0#5 _ 0#16).trans ?_
  simp only [BitVec.and_zero]
  rfl

theorem Laws.TableRow.bc0f (imm : Half) :
    Laws.TableRow.Statement (.bc0f imm) := by
  refine (encodeI_and _ 63#6 _ 31#5 _ 31#5 _ 0#16).trans ?_
  simp only [BitVec.and_zero]
  rfl

theorem Laws.TableRow.bc0t (imm : Half) :
    Laws.TableRow.Statement (.bc0t imm) := by
  refine (encodeI_and _ 63#6 _ 31#5 _ 31#5 _ 0#16).trans ?_
  simp only [BitVec.and_zero]
  rfl

theorem Laws.TableRow.bc1f (imm : Half) :
    Laws.TableRow.Statement (.bc1f imm) := by
  refine (encodeI_and _ 63#6 _ 31#5 _ 31#5 _ 0#16).trans ?_
  simp only [BitVec.and_zero]
  rfl

theorem Laws.TableRow.bc1t (imm : Half) :
    Laws.TableRow.Statement (.bc1t imm) := by
  refine (encodeI_and _ 63#6 _ 31#5 _ 31#5 _ 0#16).trans ?_
  simp only [BitVec.and_zero]
  rfl

theorem Laws.TableRow.bc2f (imm : Half) :
    Laws.TableRow.Statement (.bc2f imm) := by
  refine (encodeI_and _ 63#6 _ 31#5 _ 31#5 _ 0#16).trans ?_
  simp only [BitVec.and_zero]
  rfl

theorem Laws.TableRow.bc2t (imm : Half) :
    Laws.TableRow.Statement (.bc2t imm) := by
  refine (encodeI_and _ 63#6 _ 31#5 _ 31#5 _ 0#16).trans ?_
  simp only [BitVec.and_zero]
  rfl

theorem Laws.TableRow.bc3f (imm : Half) :
    Laws.TableRow.Statement (.bc3f imm) := by
  refine (encodeI_and _ 63#6 _ 31#5 _ 31#5 _ 0#16).trans ?_
  simp only [BitVec.and_zero]
  rfl

theorem Laws.TableRow.bc3t (imm : Half) :
    Laws.TableRow.Statement (.bc3t imm) := by
  refine (encodeI_and _ 63#6 _ 31#5 _ 31#5 _ 0#16).trans ?_
  simp only [BitVec.and_zero]
  rfl

theorem Laws.TableRow.syscall (code : BitVec 20) :
    Laws.TableRow.Statement (.syscall code) := by
  refine (encodeBrk_and _ 0#20 _ 63#6).trans ?_
  simp only [BitVec.and_zero]
  rfl

theorem Laws.TableRow.brk (code : BitVec 20) :
    Laws.TableRow.Statement (.brk code) := by
  refine (encodeBrk_and _ 0#20 _ 63#6).trans ?_
  simp only [BitVec.and_zero]
  rfl

theorem Laws.TableRow.mfc0 (rt rd : Reg) :
    Laws.TableRow.Statement (.mfc0 rt rd) := by
  refine (encodeR_and _ 63#6 _ 63#6 _ 31#5 _ 0#5 _ 0#5 _
    31#5).trans ?_
  simp only [BitVec.and_zero]
  rfl

theorem Laws.TableRow.mtc0 (rt rd : Reg) :
    Laws.TableRow.Statement (.mtc0 rt rd) := by
  refine (encodeR_and _ 63#6 _ 63#6 _ 31#5 _ 0#5 _ 0#5 _
    31#5).trans ?_
  simp only [BitVec.and_zero]
  rfl

theorem Laws.TableRow.rfe :
    Laws.TableRow.Statement (.rfe) := by
  rfl

end Sys2Proof
end

