-- ==== Sys2Proof/Tests/Slice0.lean ====
section
/-! SUPPORT. Tests on fixed values, whose expected results come from the examples of the rules and
from 95_test_vectors.md, and for every statement with hypotheses a state that meets them. -/

namespace Sys2Proof.Machine.Tests

/-! ### Helpers -/

/-- The next state, if there is one. -/
def nextOf : Result → Option State
  | .next t => some t
  | .fault _ => none
  | .refused _ => none

/-- The refusal, if it is one. -/
def refusalOf : Result → Option Refusal
  | .next _ => none
  | .fault _ => none
  | .refused x => some x

theorem exists_next {r : Result} (h : (nextOf r).isSome = true) : ∃ t, r = .next t := by
  cases r with
  | next t => exact ⟨t, rfl⟩
  | fault f => exact absurd h (by simp [nextOf])
  | refused x => exact absurd h (by simp [nextOf])

/-- A state with an SR, a pc and some registers. -/
def st (sr pc : Word) (regs : List (Reg × Word)) : State :=
  regs.foldl (fun s p => s.writeGpr p.1 p.2) { State.reset with sr := sr, pc := pc }

/-- A kernel-mode state with the normal vectors. -/
def kst (regs : List (Reg × Word)) : State := st 0#32 0x80001000#32 regs

/-- A field of the state after an instruction. -/
def after {α : Type} (i : Instr) (s : State) (f : State → α) : Option α :=
  (nextOf (exec i s)).map f

/-! ### Well-formedness (44_control_transfer.md R178) -/

theorem test_wellFormed_refuses_jalr : Instr.wellFormed (.jalr 5 5) = false := by decide
theorem test_wellFormed_jalr : Instr.wellFormed (.jalr 31 1) = true := by decide

/-! ### Decoding: a word written out for every instruction (30_encoding.md R85 and the examples of
the rules R106 to R180) -/

theorem test_decode_add : decode 0x01095020#32 = .ok (.add 10 8 9) := by decide
theorem test_decode_addu : decode 0x003F0821#32 = .ok (.addu 1 1 31) := by decide
theorem test_decode_sub : decode 0x01095022#32 = .ok (.sub 10 8 9) := by decide
theorem test_decode_subu : decode 0x01095023#32 = .ok (.subu 10 8 9) := by decide
theorem test_decode_and : decode 0x035BD024#32 = .ok (.and 26 26 27) := by decide
theorem test_decode_or : decode 0x037AD825#32 = .ok (.or 27 27 26) := by decide
theorem test_decode_addi : decode 0x21080001#32 = .ok (.addi 8 8 1) := by decide
theorem test_decode_addiu : decode 0x27BDFFF0#32 = .ok (.addiu 29 29 0xFFF0) := by decide
theorem test_decode_andi : decode 0x335B003C#32 = .ok (.andi 27 26 0x3C) := by decide
theorem test_decode_ori : decode 0x375A0200#32 = .ok (.ori 26 26 0x200) := by decide
theorem test_decode_sll : decode 0x001AD3C0#32 = .ok (.sll 26 26 15) := by decide
theorem test_decode_srl : decode 0x00010842#32 = .ok (.srl 1 1 1) := by decide
theorem test_decode_sllv : decode 0x03FAD004#32 = .ok (.sllv 26 26 31) := by decide
theorem test_decode_lui : decode 0x3C1A9FC0#32 = .ok (.lui 26 0x9FC0) := by decide
theorem test_decode_mult : decode 0x01090018#32 = .ok (.mult 8 9) := by decide
theorem test_decode_multu : decode 0x01090019#32 = .ok (.multu 8 9) := by decide
theorem test_decode_div : decode 0x0109001A#32 = .ok (.div 8 9) := by decide
theorem test_decode_divu : decode 0x0109001B#32 = .ok (.divu 8 9) := by decide
theorem test_decode_mfhi : decode 0x0000F810#32 = .ok (.mfhi 31) := by decide
theorem test_decode_mflo : decode 0x0000F812#32 = .ok (.mflo 31) := by decide
theorem test_decode_mthi : decode 0x03E00011#32 = .ok (.mthi 31) := by decide
theorem test_decode_mtlo : decode 0x03E00013#32 = .ok (.mtlo 31) := by decide
theorem test_decode_lw : decode 0x8C610000#32 = .ok (.lw 1 3 0) := by decide
theorem test_decode_lh : decode 0x84880002#32 = .ok (.lh 8 4 2) := by decide
theorem test_decode_lhu : decode 0x94880002#32 = .ok (.lhu 8 4 2) := by decide
theorem test_decode_sw : decode 0xAFA10008#32 = .ok (.sw 1 29 8) := by decide
theorem test_decode_sh : decode 0xA4880006#32 = .ok (.sh 8 4 6) := by decide
theorem test_decode_beq : decode 0x13600003#32 = .ok (.beq 27 0 3) := by decide
theorem test_decode_bne : decode 0x1420000C#32 = .ok (.bne 1 0 12) := by decide
theorem test_decode_bgez : decode 0x0741FFFD#32 = .ok (.bgez 26 0xFFFD) := by decide
theorem test_decode_j : decode 0x08000400#32 = .ok (.j 0x400) := by decide
theorem test_decode_jal : decode 0x0C000400#32 = .ok (.jal 0x400) := by decide
theorem test_decode_jr : decode 0x03400008#32 = .ok (.jr 26) := by decide
theorem test_decode_jalr : decode 0x0020F809#32 = .ok (.jalr 31 1) := by decide
theorem test_decode_bc0f : decode 0x41000004#32 = .ok (.bc0f 4) := by decide
theorem test_decode_bc0t : decode 0x41010004#32 = .ok (.bc0t 4) := by decide
theorem test_decode_bc1f : decode 0x45000004#32 = .ok (.bc1f 4) := by decide
theorem test_decode_bc1t : decode 0x45010004#32 = .ok (.bc1t 4) := by decide
theorem test_decode_bc2f : decode 0x49000004#32 = .ok (.bc2f 4) := by decide
theorem test_decode_bc2t : decode 0x49010004#32 = .ok (.bc2t 4) := by decide
theorem test_decode_bc3f : decode 0x4D000004#32 = .ok (.bc3f 4) := by decide
theorem test_decode_bc3t : decode 0x4D010004#32 = .ok (.bc3t 4) := by decide
theorem test_decode_syscall : decode 0x0000000C#32 = .ok (.syscall 0) := by decide
theorem test_decode_break : decode 0x03FFFFCD#32 = .ok (.brk 0xFFFFF) := by decide
theorem test_decode_mfc0 : decode 0x401A6800#32 = .ok (.mfc0 26 13) := by decide
theorem test_decode_mtc0 : decode 0x409B6000#32 = .ok (.mtc0 27 12) := by decide
theorem test_decode_rfe : decode 0x42000010#32 = .ok .rfe := by decide

/-- R85: an unused field that is not zero is no instruction of the table. -/
theorem test_decode_unusedField : decode 0x00200000#32 = .error .unusedField := by decide
/-- R81: an instruction needs four bytes. -/
theorem test_decodeBytes_truncated :
    decodeBytes true [0x00#8, 0x00#8, 0x00#8] = .error .truncated := by decide
/-- R54: the bytes of a word in the two orders. -/
theorem test_decodeBytes_littleEndian :
    decodeBytes false [0x01#8, 0x00#8, 0x08#8, 0x21#8] = .ok (.addi 8 8 1, []) := by decide

/-! ### Arithmetic (examples of R140 to R153) -/

theorem test_add : after (.add 10 8 9) (kst [(8, 5), (9, 0xFFFFFFFE)]) (·.gpr 10) =
    some 3 := by decide
theorem test_add_overflow : after (.add 10 8 9) (kst [(8, 0x7FFFFFFF), (9, 1), (10, 7)])
    (fun t => (t.gpr 10, t.cause.excCode, t.pc, t.epc)) =
    some (7, 12, 0x80000080, 0x80001000) := by decide
theorem test_addu : after (.addu 1 1 31) (kst [(1, 0xFFFFFFFF), (31, 1)]) (·.gpr 1) =
    some 0 := by decide
theorem test_sub : after (.sub 10 8 9) (kst [(8, 3), (9, 5)]) (·.gpr 10) =
    some 0xFFFFFFFE := by decide
theorem test_sub_overflow : after (.sub 10 8 9) (kst [(9, 0x80000000)])
    (fun t => (t.gpr 10, t.cause.excCode)) = some (0, 12) := by decide
theorem test_subu : after (.subu 10 8 9) (kst [(8, 0x80000000), (9, 1)]) (·.gpr 10) =
    some 0x7FFFFFFF := by decide
theorem test_and : after (.and 26 26 27) (kst [(26, 0x00008400), (27, 0x0000FF01)])
    (·.gpr 26) = some 0x00008400 := by decide
theorem test_or : after (.or 27 27 26) (kst [(27, 0x00400000), (26, 0x0000C000)]) (·.gpr 27) =
    some 0x0040C000 := by decide
theorem test_addi : after (.addi 8 8 1) (kst [(8, 41)]) (·.gpr 8) = some 42 := by decide
theorem test_addi_overflow : after (.addi 8 8 1) (kst [(8, 0x7FFFFFFF)])
    (fun t => (t.gpr 8, t.cause.excCode)) = some (0x7FFFFFFF, 12) := by decide
theorem test_addiu : after (.addiu 29 29 0xFFF0) (kst [(29, 0x80010000)]) (·.gpr 29) =
    some 0x8000FFF0 := by decide
theorem test_andi : after (.andi 27 26 0x3C) (kst [(26, 0x80000420)]) (·.gpr 27) =
    some 0x20 := by decide
theorem test_andi_zero_extends : after (.andi 27 26 0x8000) (kst [(26, 0xFFFFFFFF)])
    (·.gpr 27) = some 0x8000 := by decide
theorem test_ori : after (.ori 27 27 1) (kst [(27, 0x0040C000)]) (·.gpr 27) =
    some 0x0040C001 := by decide
theorem test_sll : after (.sll 26 26 15) (kst [(26, 0x00008400)]) (·.gpr 26) =
    some 0x42000000 := by decide
theorem test_srl : after (.srl 1 1 1) (kst [(1, 0x80003001)]) (·.gpr 1) =
    some 0x40001800 := by decide
theorem test_sllv : after (.sllv 26 26 31) (kst [(26, 0xFFFFFFFF), (31, 7)]) (·.gpr 26) =
    some 0xFFFFFF80 := by decide
theorem test_sllv_by_32 : after (.sllv 26 26 31) (kst [(26, 5), (31, 32)]) (·.gpr 26) =
    some 5 := by decide
theorem test_lui : after (.lui 26 0x9FC0) (kst []) (·.gpr 26) = some 0x9FC00000 := by decide
theorem test_zero_register : after (.lui 0 0x9FC0) (kst []) (·.gpr 0) = some 0 := by decide

/-! ### Multiply and divide (examples of R160 to R168) -/

theorem test_mult : after (.mult 8 9) (kst [(8, 0xFFFFFFFF), (9, 2)])
    (fun t => (t.hi, t.lo)) = some (0xFFFFFFFF, 0xFFFFFFFE) := by decide
theorem test_mult_smallest : after (.mult 8 9) (kst [(8, 0x80000000), (9, 0x80000000)])
    (fun t => (t.hi, t.lo)) = some (0x40000000, 0) := by decide
theorem test_multu : after (.multu 8 9) (kst [(8, 0xFFFFFFFF), (9, 2)])
    (fun t => (t.hi, t.lo)) = some (1, 0xFFFFFFFE) := by decide
theorem test_div : after (.div 8 9) (kst [(8, 0xFFFFFFF9), (9, 2)])
    (fun t => (t.hi, t.lo)) = some (0xFFFFFFFF, 0xFFFFFFFD) := by decide
theorem test_div_by_zero_goes_on : after (.div 8 9) (kst [(8, 7)]) (·.pc) =
    some 0x80001004 := by decide
theorem test_divu : after (.divu 8 9) (kst [(8, 0xFFFFFFF9), (9, 2)])
    (fun t => (t.hi, t.lo)) = some (1, 0x7FFFFFFC) := by decide
theorem test_mfhi : after (.mfhi 31) { kst [] with hi := 0x12345678#32 }
    (fun t => (t.gpr 31, t.hiloGuard, t.hiloFollowers)) =
    some (0x12345678, 2, [0x80001004, 0x80001008]) := by decide
theorem test_mflo : after (.mflo 31) { kst [] with lo := 9#32 } (·.gpr 31) = some 9 := by decide
theorem test_mthi : after (.mthi 31) { kst [(31, 4)] with lo := 9#32 }
    (fun t => (t.hi, t.lo)) = some (4, 9) := by decide
theorem test_mtlo : after (.mtlo 31) { kst [(31, 4)] with hi := 9#32 }
    (fun t => (t.hi, t.lo)) = some (9, 4) := by decide
theorem test_hilo_distance : refusalOf (exec (.mthi 31) { kst [] with hiloGuard := 1 }) =
    some .hiloReorganization := by decide
/-- R168: the entry of a SYSCALL between an MFHI and a writer neither ends the distance in the
handler nor, after the return, for the writer. -/
theorem test_hilo_distance_across_entry :
    (after (.mfhi 31) (kst []) fun t => after (.syscall 0) t fun u =>
      (refusalOf (exec (.mult 8 9) u),
        refusalOf (exec (.mult 8 9) { u with pc := 0x80001008#32, hiloGuard := 0 }),
        refusalOf (exec (.mult 8 9) { u with pc := 0x8000100C#32, hiloGuard := 0 }))) =
    some (some (some .hiloReorganization, some .hiloReorganization, none)) := by decide

/-! ### Loads and stores (examples of R106 to R110, vectors of 95_test_vectors.md) -/

/-- A kernel-mode state with the bytes 12 34 56 78 at 0x1000 and 80 01 at 0x2002. -/
def memState : State :=
  { kst [(3, 0x1000), (4, 0x2000), (8, 0x1234ABCD), (29, 0x80001000), (1, 0xCAFE0001)] with
    mem := Memory.ofCells [(0x1000, 0x12), (0x1001, 0x34), (0x1002, 0x56), (0x1003, 0x78),
      (0x2002, 0x80), (0x2003, 0x01)] }

theorem test_lw : after (.lw 1 3 0) memState (fun t => (t.gpr 1, t.loadDelay)) =
    some (0x12345678, some 1) := by decide
theorem test_lw_littleEndian :
    after (.lw 1 3 0) { memState with cfg := { memState.cfg with bigEndian := false } }
      (·.gpr 1) = some 0x78563412 := by decide
theorem test_lh : after (.lh 9 4 2) memState (·.gpr 9) = some 0xFFFF8001 := by decide
theorem test_lhu : after (.lhu 9 4 2) memState (·.gpr 9) = some 0x00008001 := by decide
theorem test_sw : after (.sw 1 29 8) memState (fun t => t.mem.readWord true 0x80001008) =
    some 0xCAFE0001 := by decide
theorem test_sh : after (.sh 8 4 6) memState (fun t => t.mem.readHalf true 0x2006) =
    some 0xABCD := by decide
theorem test_lw_misaligned : after (.lw 1 3 2) memState
    (fun t => (t.cause.excCode, t.badA, t.gpr 1)) = some (4, 0x1002, 0xCAFE0001) := by decide
theorem test_sw_kernel_address_in_user_mode :
    after (.sw 1 29 8) { memState with sr := 2#32 } (fun t => (t.cause.excCode, t.badA)) =
      some (5, 0x80001008) := by decide

/-! ### Control transfer (examples of R172 to R180) -/

theorem test_beq : after (.beq 27 0 3) (st 0 0x80000100 []) (fun t => (t.pc, t.delay)) =
    some (0x80000104, .slot true 0x80000110) := by decide
theorem test_beq_not_taken : after (.beq 27 0 3) (st 0 0x80000100 [(27, 1)]) (·.delay) =
    some (.slot false 0x80000110) := by decide
theorem test_bne : after (.bne 1 0 12) (st 0 0x80000100 [(1, 1)]) (·.delay) =
    some (.slot true 0x80000134) := by decide
theorem test_bgez_backwards : after (.bgez 26 0xFFFD) (st 0 0x80000108 []) (·.delay) =
    some (.slot true 0x80000100) := by decide
theorem test_bgez_negative : after (.bgez 26 0xFFFD) (st 0 0x80000108 [(26, 0x80000000)])
    (·.delay) = some (.slot false 0x80000100) := by decide
theorem test_j : after (.j 0x400) (st 0 0x80000200 []) (·.delay) =
    some (.slot true 0x80001000) := by decide
theorem test_jal : after (.jal 0x400) (st 0 0x80000200 []) (fun t => (t.gpr 31, t.delay)) =
    some (0x80000208, .slot true 0x80001000) := by decide
theorem test_jr : after (.jr 26) (st 0 0x80000200 [(26, 0x2001)]) (·.delay) =
    some (.slot true 0x2001) := by decide
theorem test_jalr : after (.jalr 31 1) (st 0 0x80000300 [(1, 0x80003000)])
    (fun t => (t.gpr 31, t.delay)) = some (0x80000308, .slot true 0x80003000) := by decide
theorem test_jalr_same_register : refusalOf (exec (.jalr 1 1) (kst [])) =
    some .jalrSameRegister := by decide
theorem test_branch_in_slot :
    refusalOf (exec (.j 0) { kst [] with delay := .slot false 0#32 }) =
      some .branchInDelaySlot := by decide
theorem test_bc2f : after (.bc2f 4) (st 0x40000000 0x80000100 []) (·.delay) =
    some (.slot true 0x80000114) := by decide
theorem test_bc2f_unusable : after (.bc2f 4) (kst []) (fun t => (t.cause.excCode, t.cause.ce)) =
    some (11, 2) := by decide
theorem test_bc2t : after (.bc2t 4) (st 0x40000000 0x80000100 []) (·.delay) =
    some (.slot false 0x80000114) := by decide
theorem test_bc0f_kernel : after (.bc0f 4) (kst []) (·.delay) =
    some (.slot true 0x80001014) := by decide
theorem test_bc0t_user : after (.bc0t 4) (st 2 0x1000 []) (fun t => (t.cause.excCode, t.cause.ce)) =
    some (11, 0) := by decide
theorem test_bc1f : after (.bc1f 4) (st 0x20000000 0x80000100 []) (·.delay) =
    some (.slot true 0x80000114) := by decide
theorem test_bc1t : after (.bc1t 4)
    { st 0x20000000 0x80000100 [] with env := { Env.quiet with cpc := 2#4 } } (·.delay) =
    some (.slot true 0x80000114) := by decide
theorem test_bc3f : after (.bc3f 4)
    { st 0x80000000 0x80000100 [] with env := { Env.quiet with cpc := 8#4 } } (·.delay) =
    some (.slot false 0x80000114) := by decide
theorem test_bc3t : after (.bc3t 4)
    { st 0x80000000 0x80000100 [] with env := { Env.quiet with cpc := 8#4 } } (·.delay) =
    some (.slot true 0x80000114) := by decide

/-! ### System instructions (examples of R121 to R128) -/

theorem test_syscall : after (.syscall 0) (st 0x0000FF13 0x00400010 [])
    (fun t => (t.pc, t.epc, t.sr, t.cause.excCode, t.cause.bd)) =
    some (0x80000080, 0x00400010, 0x0000FF0C, 8, false) := by decide
theorem test_syscall_in_slot :
    after (.syscall 0) { st 0x00400013 0x00400010 [] with delay := .slot true 0x2000#32 }
      (fun t => (t.pc, t.epc, t.tar, t.cause.bd, t.cause.bt)) =
      some (0xBFC00180, 0x0040000C, 0x2000, true, true) := by decide
theorem test_break : after (.brk 3) (st 1 0x80001000 [])
    (fun t => (t.pc, t.epc, t.sr, t.cause.excCode)) =
    some (0x80000080, 0x80001000, 4, 9) := by decide
theorem test_mfc0_cause :
    after (.mfc0 26 13) { kst [] with env := { Env.quiet with int := 1#6 } } (·.gpr 26) =
      some 0x00000400 := by decide
theorem test_mfc0_prid : after (.mfc0 26 15) (kst []) (·.gpr 26) = some 0x00000A0A := by decide
theorem test_mtc0_sr : after (.mtc0 27 12) (st 0x00100000 0x80001000 [(27, 0xFFFFFFFF)]) (·.sr) =
    some 0xF045FF3F := by decide
theorem test_mtc0_absent : after (.mtc0 27 10) (kst []) (fun t => (t.pc, t.cause.excCode)) =
    some (0x80000080, 10) := by decide
theorem test_rfe : after .rfe (st 0x0000000C 0x80001000 []) (fun t => (t.sr, t.pc)) =
    some (0x00000003, 0x80001004) := by decide
theorem test_rfe_user : after .rfe (st 2 0x1000 []) (·.cause.excCode) = some 10 := by decide

/-! ### The step, resets, withFetchWord (vectors V-EX, V-IN, V-DB, V-RS) -/

/-- A field of the state after one step with word `w` at the pc. -/
def stepped {α : Type} (s : State) (w : Nat) (f : State → α) : Option α :=
  (nextOf (step (s.withFetchWord 32 w))).map f

/-- V-RS-3: `mfc0 t0,$12` as the first instruction after reset. -/
theorem test_step_from_reset : stepped State.reset 0x40086000 (fun t => (t.gpr 8, t.pc)) =
    some (0x00400000, 0xBFC00004) := by decide
theorem test_decodeTableWord : decodeTableWord 32 0x8C610000 = some (.lw 1 3 0) := by decide
/-- V-EX-5: major operation code 63 is reserved. -/
theorem test_step_reserved : stepped (kst []) 0xFC000000 (·.cause.excCode) = some 10 := by decide
/-- V-SY-14: a word of a usable coprocessor outside the table. -/
theorem test_step_coprocessorWord :
    refusalOf (step ((st 0x20000000 0x80001000 []).withFetchWord 32 0x46000000)) =
      some .coprocessorWord := by decide
/-- V-IN-20 and V-IN-21: the interrupt is taken, or not. -/
theorem test_step_interrupt :
    stepped { st 0x401 0x80001000 [] with env := { Env.quiet with int := 1#6 } } 0x24080001
      (fun t => (t.pc, t.epc, t.sr, t.gpr 8)) =
      some (0x80000080, 0x80001000, 0x00000404, 0) := by decide
theorem test_step_interrupt_deferred :
    stepped { st 0x401 0x80001000 [] with
      env := { Env.quiet with int := 1#6, takeInterrupt := false } } 0x24080001
      (fun t => (t.pc, t.gpr 8)) = some (0x80001004, 1) := by decide
/-- V-DB-9: a program-counter breakpoint with BEV set. -/
theorem test_step_breakpoint :
    stepped { st 0x00400000 0x80001000 [] with
      bpc := 0x80001234#32, bpcm := 0xFFFF0000#32, dcic := 0xA1800000#32 } 0
      (fun t => (t.pc, t.epc, t.dcic, t.cause.excCode)) =
      some (0xBFC00140, 0x80001000, 0xA1800003, 9) := by decide
/-- V-DB-2: a data breakpoint that only posts. -/
theorem test_step_data_breakpoint_posts :
    stepped { kst [(16, 0x80002000), (8, 0x55)] with
      bda := 0x80002000#32, bdam := 0xFFFFFFF0#32, dcic := 0x2A800000#32 } 0xAE080004
      (fun t => (t.dcic, t.mem.readWord true 0x80002004)) =
      some (0x2A800015, 0x55) := by decide
/-- V-RS-2: a warm reset keeps EPC, TAR, BPC, BDA. -/
theorem test_warm_reset :
    (nextOf (step { st 0xFF03 0x80001000 [] with
      epc := 0x80001234#32, tar := 0x80005678#32, bpc := 0x1000#32, bda := 0x2000#32,
      bpcm := 0#32, dcic := 0xA1800003#32,
      env := { Env.quiet with reset := some ⟨.warm, [], false⟩ } })).map
      (fun t => (t.pc, t.sr, t.dcic, t.bpcm, t.epc, t.tar, t.bpc, t.bda)) =
      some (0xBFC00000, 0x00400000, 0, 0xFFFFFFFF, 0x80001234, 0x80005678, 0x1000,
        0x2000) := by decide

/-- V-LS-2: a negative displacement. -/
theorem test_lw_negative_displacement :
    after (.lw 8 16 0xFFFC) { kst [(16, 0x80002000)] with
      mem := Memory.writeBytes [] 0x80001FFC (wordBytes true 0x12345678) } (·.gpr 8) =
      some 0x12345678 := by decide
/-- A program of words at the pc of a state. -/
def program (s : State) (ws : List Word) : State :=
  { s with mem := s.mem.writeBytes s.pc.toNat (ws.flatMap (wordBytes s.cfg.bigEndian)) }
/-- The outcome of `n` steps. -/
def run : Nat → State → Result
  | 0, s => .next s
  | n + 1, s =>
    match step s with
    | .next t => run n t
    | .fault f => .fault f
    | .refused x => .refused x
/-- R273: MTC0 to BPC, then MFC0 of it, next or after one more instruction. -/
theorem test_read_in_window :
    refusalOf (run 2 (program (kst [(8, 1)]) [encode (.mtc0 8 3), encode (.mfc0 9 3)])) =
      some .cp0WriteWindow ∧
    refusalOf (run 3 (program (kst [(8, 1)]) [encode (.mtc0 8 3), 0, encode (.mfc0 9 3)])) =
      some .cp0WriteWindow := by decide
/-- R273: after two more instructions, or if the write changed nothing, MFC0 reads. -/
theorem test_read_after_window :
    (nextOf (run 4 (program (kst [(8, 1)]) [encode (.mtc0 8 3), 0, 0, encode (.mfc0 9 3)]))).map
      (·.gpr 9) = some 1 ∧
    (nextOf (run 2 (program (kst []) [encode (.mtc0 8 3), encode (.mfc0 9 3)]))).map
      (·.gpr 9) = some 0 := by decide
/-- V-SY-15: user mode set at a kernel address. -/
theorem test_kernel_fetch_in_window :
    refusalOf (run 2 (program (kst [(8, 2)]) [encode (.mtc0 8 12), 0])) =
      some .cp0WriteWindow := by decide
/-- V-SY-25: an RFE right after an RFE. -/
theorem test_rfe_after_rfe :
    (nextOf (run 2 (program (st 0x24 0x80001000 []) [encode .rfe, encode .rfe]))).map (·.sr) =
      some 0x2A := by decide
/-- R242, R273: after JR with RFE in its slot the target runs in the restored mode. -/
theorem test_return_opens_no_window :
    (nextOf (run 2 (program (st 8 0x80001000 [(26, 0x1000)]) [encode (.jr 26), encode .rfe]))).map
      (fun t => (t.pc, t.sr, t.cp0Window)) = some (0x1000, 2, []) := by decide

/-- A platform that answers words but no halfwords at an address (R61). -/
theorem test_word_only_region :
    let c := { defaultConfig with memoryMap := [⟨0x1000, 4, [4], true, true, true⟩] }
    platformAnswers c 0x1000 4 .load = true ∧ platformAnswers c 0x1000 2 .load = false := by decide
/-- A `ReservedOpcode` that holds of one REGIMM row (R88). -/
theorem test_reserved_regimm :
    let c := { defaultConfig with reservedWords := [⟨0xFC1F0000, 0x04030000⟩] }
    reservedOpcode c 0x04430001 = true ∧ reservedOpcode c 0x04420001 = false := by decide
/-- R66 across a reset: a byte stored to before a warm reset is still refused to a fetch. -/
theorem test_fetch_of_stored_after_reset :
    let s := { kst [] with
      stored := [0xBFC00001]
      env := { Env.quiet with reset := some ⟨.warm, [], false⟩ } }
    (nextOf (step s)).map (fun t => refusalOf (step t)) = some (some .fetchOfStoredByte) := by
  decide

/-! ### The hypotheses of the statements can be met

One theorem for every statement with hypotheses; where a statement has several clauses, the
boundary values of each. -/

/-- The environment answers data accesses with BERR. -/
def berr : Env := { Env.quiet with berrData := true }

theorem witness_EncodeOfDecode : decode 0xFFFFFFFF#32 = .error .unknownMajor ∧
    decode 0x0FFFFFFF#32 = .ok (.jal 0x3FFFFFF) := by decide

/-- An unusable coprocessor; a reserved major and minor code; a usable coprocessor's word; a word
that is neither. -/
theorem witness_WordsOutsideTable :
    (decode 0x46000000#32 = .error .unknownCoprocessor ∧
      coprocessorOf 0x46000000#32 = some 1 ∧ (kst []).usable 1 = false) ∧
    (decode 0xFC000000#32 = .error .unknownMajor ∧ coprocessorOf 0xFC000000#32 = none ∧
      reservedOpcode (kst []).cfg 0xFC000000#32 = true) ∧
    (decode 0x00000001#32 = .error .unknownMinor ∧ coprocessorOf 0x00000001#32 = none ∧
      reservedOpcode (kst []).cfg 0x00000001#32 = true) ∧
    (decode 0x42000001#32 = .error .unknownCoprocessor ∧
      coprocessorOf 0x42000001#32 = some 0 ∧ (kst []).usable 0 = true ∧
      reservedOpcode (kst []).cfg 0x42000001#32 = false) ∧
    (decode 0x00200000#32 = .error .unusedField ∧ coprocessorOf 0x00200000#32 = none ∧
      reservedOpcode (kst []).cfg 0x00200000#32 = false) := by decide

/-- The step's clause of the same statement: a reserved word and a refused one at the pc. -/
theorem witness_WordsOutsideTable_step :
    let s := program (kst []) [0xFC000000]
    let u := program (kst []) [0x00200000]
    (Quiet s ∧ FetchGoes s ∧ s.mem.readWord true s.pc.toNat = 0xFC000000 ∧
      WordSettled s 0xFC000000 ∧ s.fetchPosted.entryUnsettled = false ∧
      (nextOf (meaning s.fetchPosted 0xFC000000)).isSome = true) ∧
    (Quiet u ∧ FetchGoes u ∧ u.mem.readWord true u.pc.toNat = 0x00200000 ∧
      WordSettled u 0x00200000 ∧
      refusalOf (meaning u.fetchPosted 0x00200000) = some .wordOutsideTable) := by
  simp only [Quiet, FetchGoes, WordSettled]; decide

/-- The largest and the smallest sums and differences that fit. -/
theorem witness_TrappingFormsComplete :
    let s := kst [(8, 0x7FFFFFFE), (9, 1), (10, 0x80000001), (11, 0xFFFFFFFF)]
    (s.rsVal 8).toInt + (s.rtVal 9).toInt = 2 ^ 31 - 1 ∧
    (s.rsVal 10).toInt + (s.rtVal 11).toInt = -2 ^ 31 ∧
    (s.rsVal 10).toInt - (s.rtVal 9).toInt = -2 ^ 31 ∧
    (s.rsVal 8).toInt - (s.rtVal 11).toInt = 2 ^ 31 - 1 ∧
    (s.rsVal 8).toInt + (1#16).toInt = 2 ^ 31 - 1 ∧
    (s.rsVal 10).toInt + (0xFFFF#16).toInt = -2 ^ 31 := by decide

theorem witness_Overflow :
    let s := kst [(8, 0x7FFFFFFF), (9, 1), (10, 0x80000000), (11, 0xFFFFFFFF)]
    (s.rsVal 8).toInt + (s.rtVal 9).toInt = 2 ^ 31 ∧
    (s.rsVal 10).toInt + (s.rtVal 11).toInt = -2 ^ 31 - 1 ∧
    (s.rsVal 10).toInt - (s.rtVal 9).toInt = -2 ^ 31 - 1 ∧
    (s.rsVal 8).toInt + (1#16).toInt = 2 ^ 31 := by decide

theorem witness_Multiply : HiLoWritable (kst []) := ⟨rfl, by decide⟩

theorem witness_Divide :
    let s := kst [(8, 0x80000000), (9, 0xFFFFFFFF), (10, 1)]
    (s.hiloGuard = 0 ∧ s.pc.toNat ∉ s.hiloFollowers) ∧ s.rtVal 9 ≠ 0#32 ∧ s.rtVal 10 ≠ 0#32 ∧
    ¬ ((s.rsVal 8).toInt = -2 ^ 31 ∧ (s.rtVal 10).toInt = -1) ∧
    ¬ ((s.rsVal 10).toInt = -2 ^ 31 ∧ (s.rtVal 9).toInt = -1) := by decide

theorem witness_DivisionCorners :
    let s := kst [(8, 0x80000000), (9, 0xFFFFFFFF)]
    (s.hiloGuard = 0 ∧ s.pc.toNat ∉ s.hiloFollowers) ∧ s.rtVal 0 = 0#32 ∧
    ((s.rsVal 8).toInt = -2 ^ 31 ∧ (s.rtVal 9).toInt = -1) := by decide

theorem witness_HiLoMoves : HiLoWritable (kst []) := ⟨rfl, by decide⟩

/-- Both distances and a remembered address; a next state that no exception entry gives, and one that
an entry gives. -/
theorem witness_HiLoDistance :
    ¬ HiLoWritable { kst [] with hiloGuard := 1 } ∧ ¬ HiLoWritable { kst [] with hiloGuard := 2 } ∧
    ¬ HiLoWritable { kst [] with hiloFollowers := [0x80001000] } ∧
    after (.syscall 0) { kst [] with hiloGuard := 2 } (·.arrival) = some .vector ∧
    after (.mfhi 5) (kst []) (fun t => (t.arrival, t.hiloGuard)) = some (.sequential, 2) ∧
    after (.lui 5 0) { kst [] with hiloGuard := 2 } (fun t => (t.arrival, t.hiloGuard)) =
      some (.sequential, 1) := by
  simp only [HiLoWritable]; decide

/-- After an MFHI the next step takes an interrupt, the one after it is the handler's RFE in the slot
of its return: the run is at the address that follows the MFHI. After an MFLO and one more
instruction it is at the second address. -/
theorem witness_HiLoDistanceOverRuns :
    let e := { Env.quiet with int := 1#6 }
    let s := { st 0x405 0x80001000 [(26, 0x80001004)] with schedule := [e] }
    let m := Memory.writeBytes [] 0x80000080 (wordBytes true (encode (.jr 26)))
    let p := { s with mem := m.writeBytes 0x80000084 (wordBytes true (encode .rfe)) }
    (nextOf (exec (.mfhi 5) p)).bind (fun t => (nextOf (step t.nextEnv)).bind fun u =>
      (nextOf (step u)).bind fun v => (nextOf (step v)).map fun w =>
        (u.pc, v.pc, decide (w.pc = p.nextPc), w.hiloFollowers)) =
      some (0x80000080, 0x80000084, true, [0x80001004, 0x80001008]) ∧
    (let q := { kst [] with mem := Memory.writeBytes [] 0x80001004 (wordBytes true 0) };
      (nextOf (exec (.mflo 5) q)).bind (fun t => (nextOf (step t.nextEnv)).map fun u =>
        decide (u.pc = q.nextPc + 4#32)) = some true) := by decide

/-- The highest addresses of both widths, in kernel mode. -/
theorem witness_LoadsComplete :
    let s := kst [(4, 0xFFFFFFFC), (5, 0xFFFFFFFE)]
    (AccessPasses s (s.effectiveAddress 4 0) .word false ∧
      PlatformServes s (s.effectiveAddress 4 0) .word .load) ∧
    (AccessPasses s (s.effectiveAddress 5 0) .half false ∧
      PlatformServes s (s.effectiveAddress 5 0) .half .load) := by
  simp only [AccessPasses, PlatformServes]; decide

/-- The same, and an access that posts a debug condition without a trap. -/
theorem witness_StoresComplete :
    let s := kst [(4, 0xFFFFFFFC), (5, 0xFFFFFFFE)]
    let d := { s with bda := 0xFFFFFFFC#32, dcic := 0x2A800000#32 }
    (AccessPasses s (s.effectiveAddress 4 0) .word true ∧
      PlatformServes s (s.effectiveAddress 4 0) .word .store) ∧
    (AccessPasses s (s.effectiveAddress 5 0) .half true ∧
      PlatformServes s (s.effectiveAddress 5 0) .half .store) ∧
    (AccessPasses d (d.effectiveAddress 4 0) .word true ∧
      d.daHit (d.effectiveAddress 4 0) true = true) := by
  simp only [AccessPasses, PlatformServes]; decide

/-- A state whose platform admits nothing; `b` says whether it promises BERR. -/
def unmapped (s : State) (b : Bool) : State :=
  { s with
    cfg := { s.cfg with memoryMap := [], berrMap := if b then [Region.everything] else [] } }

theorem witness_FailedStores :
    let s := { kst [(4, 0xFFFFFFFC), (5, 0xFFFFFFFE)] with env := berr }
    let u := unmapped (kst []) true
    (AccessPasses s (s.effectiveAddress 4 0) .word true ∧
      PlatformFails s (s.effectiveAddress 4 0) .word .store) ∧
    (AccessPasses s (s.effectiveAddress 5 0) .half true ∧
      PlatformFails s (s.effectiveAddress 5 0) .half .store) ∧
    (AccessPasses u (u.effectiveAddress 0 0) .word true ∧
      PlatformFails u (u.effectiveAddress 0 0) .word .store) := by
  simp only [AccessPasses, PlatformFails]; decide

/-- Each way an access stops: misaligned, kernel address in user mode, isolated cache, a trapping
breakpoint, BERR, nothing answers. -/
theorem witness_AccessStops :
    let s := kst [(4, 0x80000000)]
    let d := { s with bda := 0x80000000#32, dcic := 0xAE800000#32 }
    let u := unmapped s false
    s.addressError (s.effectiveAddress 4 2) 4 = true ∧
    s.addressError (s.effectiveAddress 4 1) 2 = true ∧
    { s with sr := 2#32 }.addressError (s.effectiveAddress 4 0) 4 = true ∧
    (s.addressError (s.effectiveAddress 4 0) 4 = false ∧ { s with sr := 0x10000#32 }.isc = true) ∧
    (d.isc = false ∧ d.daHit (d.effectiveAddress 4 0) true = true ∧
      d.daHit (d.effectiveAddress 4 0) false = true ∧ d.debugTraps = true) ∧
    (AccessPasses { s with env := berr } (s.effectiveAddress 4 0) .half false ∧
      PlatformFails { s with env := berr } (s.effectiveAddress 4 0) .half .load) ∧
    (AccessPasses u (u.effectiveAddress 4 0) .word true ∧
      PlatformSilent u (u.effectiveAddress 4 0) .word .store ∧
      PlatformSilent u (u.effectiveAddress 4 0) .word .load) := by
  simp only [AccessPasses, PlatformFails, PlatformSilent]; decide

/-- A fetch at a misaligned and at a forbidden address; loads and stores at both. -/
theorem witness_AddressErrors :
    (Quiet (st 0 0x80001002 []) ∧ FetchSettled (st 0 0x80001002 []) ∧ (st 0 0x80001002 []).addressError 0x80001002 4 = true) ∧
    (Quiet (st 2 0x80000000 []) ∧ FetchSettled (st 2 0x80000000 []) ∧ (st 2 0x80000000 []).addressError 0x80000000 4 = true) ∧
    (st 2 0 []).addressError 0x7FFFFFFC 4 = false ∧
    (st 2 0 [(4, 0x80000000)]).addressError ((st 2 0 [(4, 0x80000000)]).effectiveAddress 4 0) 2 =
      true := by
  simp only [Quiet, FetchSettled]; decide

/-- A load and an MFC0 that go on, into x[0] too; a delayed and an undelayed register. -/
theorem witness_LoadDelay :
    after (.lw 1 3 0) memState (fun t => (t.arrival, t.loadDelay)) =
      some (.sequential, some 1) ∧
    after (.lw 0 3 0) memState (fun t => (t.arrival, t.loadDelay)) = some (.sequential, none) ∧
    after (.mfc0 26 13) (kst []) (fun t => (t.arrival, t.loadDelay)) =
      some (.sequential, some 26) ∧
    { kst [] with loadDelay := some 5 }.loadDelay = some 5 ∧
    (kst []).loadDelay ≠ some 5 := by decide

theorem witness_ConditionalBranches : (kst []).delay = .none := by decide
theorem witness_Jumps : (kst []).delay = .none ∧ (31 : Reg) ≠ 1 := by decide

theorem witness_CoprocessorBranches :
    let s := st 0xE0000000 0x80001000 []
    s.delay = .none ∧ s.usable 0 = true ∧ s.usable 1 = true ∧ s.usable 2 = true ∧
      s.usable 3 = true := by decide

theorem witness_CoprocessorUsability :
    let s := st 2 0x1000 []
    s.usable 0 = false ∧ s.usable 1 = false ∧ s.usable 2 = false ∧ s.usable 3 = false := by
  decide

/-- Slots of a taken and of an untaken branch, an exception in one. -/
theorem witness_DelaySlots :
    after (.lui 5 1) { kst [] with delay := .slot true 0x2000#32 } (·.pc) = some 0x2000 ∧
    after (.lui 5 1) { kst [] with delay := .slot false 0x2000#32 } (·.pc) =
      some 0x80001004 ∧
    after (.syscall 0) { kst [] with delay := .slot true 0x2000#32 } (·.epc) =
      some 0x80000FFC := by decide

theorem witness_RefusedTransfers :
    let s := { st 0xF0000000 0x80001000 [] with delay := .slot true 0#32 }
    (5 : Reg) ≠ 6 ∧ s.delay = .slot true 0#32 ∧ s.usable 0 = true ∧ s.usable 3 = true := by
  decide

theorem witness_MoveFromCp0 : (kst []).usable 0 = true ∧
    (st 0x10000002 0x1000 []).usable 0 = true := by decide
theorem witness_MoveToCp0 : (kst []).usable 0 = true ∧ cp0Number 3 = .reg .bpc ∧
    after (.mtc0 8 3) (kst [(8, 1)]) (·.cp0Window) = some [⟨.bpc, 1, false, 2⟩] ∧
    after (.mtc0 0 3) (kst []) (·.cp0Window) = some [] := by decide

/-- Every clause: an open window that the fetch, a word or an entry depends on, one that counts down,
and the bits named at their places. -/
theorem witness_Cp0WriteWindow :
    let w := fun (i : Instr) (m : Word) =>
      { program (kst [(4, 0x80002000)]) [encode i] with cp0Window := [⟨.sr, m, false, 1⟩] }
    (Quiet (w .rfe 2) ∧ (w .rfe 2).unsettled State.fetchOutlook = true) ∧
    (Quiet (w .rfe 4) ∧ FetchGoes (w .rfe 4) ∧ (w .rfe 4).unsettled State.fetchOutlook = false ∧
      (w .rfe 4).fetchPosted.wordUnsettled (encode .rfe) = true) ∧
    (FetchGoes (w (.syscall 0) 1) ∧
      (w (.syscall 0) 1).unsettled State.fetchOutlook = false ∧
      (w (.syscall 0) 1).fetchPosted.wordUnsettled (encode (.syscall 0)) = false ∧
      (w (.syscall 0) 1).fetchPosted.entryUnsettled = true ∧
      after (.syscall 0) (w (.syscall 0) 1).fetchPosted (·.arrival) = some .vector) ∧
    after (.lui 5 1) { kst [] with cp0Window := [⟨.sr, 2, false, 2⟩, ⟨.sr, 4, true, 1⟩] }
      (fun t => (t.arrival, t.cp0Window)) = some (.sequential, [⟨.sr, 2, false, 1⟩]) ∧
    ((w .rfe 2).effectiveAddress 4 0).getLsbD 31 = true ∧
    ((w .rfe 2).effectiveAddress 4 0).toNat % 4 = 0 ∧ (w .rfe 2).pc.getLsbD 31 = true ∧
    ({ kst [] with cp0Window := [⟨.bpc, 1, false, 2⟩] }.cp0Window = [⟨.bpc, 1, false, 2⟩] ∧
      (kst []).usable 0 = true) := by
  simp only [Quiet, FetchGoes]; decide
/-- The fetch whose own entry depends on an open window, with each of its four endings; no window; and
windows of registers that the fetch, or a data access, does not look at. -/
theorem witness_Cp0WriteWindow_fetch :
    let s := { program (kst []) [0] with cp0Window := [⟨.sr, 1, false, 1⟩] }
    let a := { s with pc := 0x80001001 }
    let d := { s with dcic := 0xA1800000#32, bpc := 0x80001000#32 }
    let u := { s with cfg := { s.cfg with memoryMap := [] } }
    let b := { s with env := { s.env with berrFetch := true } }
    (∀ t ∈ [a, d, u, b], t.env.reset = none ∧ t.env.parityError = false ∧ t.wrapped = false ∧
      t.storeErrorDue = false ∧ t.interruptTaken = false ∧
      t.unsettled State.fetchOutlook = false ∧ t.entryUnsettled = true) ∧
    a.addressError a.pc 4 = true ∧
    (d.addressError d.pc 4 = false ∧ d.pcHit d.pc = true ∧ d.debugTraps = true) ∧
    (∀ t ∈ [u, b], t.addressError t.pc 4 = false ∧ t.traceHit = false ∧ t.pcHit t.pc = false) ∧
    (platformAnswers u.cfg u.pc.toNat 4 .fetch = false ∧
      berrPromised u.cfg u.pc.toNat 4 .fetch = true) ∧
    (platformAnswers b.cfg b.pc.toNat 4 .fetch = true ∧ b.env.berrFetch = true) ∧
    (kst []).cp0Window = [] ∧
    s.instrUnsettled (.mfc0 8 12) = true ∧
    (∀ c ∈ [Cp0Change.mk .bda 1 false 2], c.reg ∉ [Cp0Reg.sr, .dcic, .bpc, .bpcm]) ∧
    (∀ c ∈ [Cp0Change.mk .bpc 1 false 2], c.reg ∉ [Cp0Reg.sr, .dcic, .bda, .bdam]) := by
  decide
theorem witness_OtherCp0Numbers : (kst []).usable 0 = true ∧
    (16 : Nat) ≤ (16#5).toNat ∧ (16 : Nat) ≤ (31#5).toNat ∧
    10#5 ∈ [0#5, 1#5, 2#5, 4#5, 10#5] := by decide
theorem witness_StatusWrite :
    let s := st 0xF055FF3D 0x80001000 [(8, 0xFFFFFFFF)]
    s.usable 0 = true ∧ s.sr &&& 0x0FAA00C0#32 = 0#32 := by decide
theorem witness_DcicWrite : (kst []).usable 0 = true := by decide
theorem witness_RestoreFromException : (kst []).usable 0 = true := by decide
theorem witness_ReturnSequence : (kst []).delay = .none ∧ (kst []).usable 0 = true := by decide
theorem witness_StatusPush :
    (∃ e, (kst []).raise .sys = (kst []).raise e) ∧ (kst []).raiseDebug = (kst []).raiseDebug :=
  ⟨⟨.sys, rfl⟩, rfl⟩
theorem witness_Vectors : (kst []).sr.getLsbD 22 = false ∧
    State.reset.sr.getLsbD 22 = true := by decide

/-- A writer of HI and LO at the next pc, and an instruction that is none. -/
theorem witness_HiLoAtEntry :
    let s := { kst [] with mem := Memory.writeBytes [] 0x80001004 (wordBytes true 0x01090018) }
    let u := { kst [] with mem := Memory.writeBytes [] 0x80001004 (wordBytes true 0) }
    (s.nextPc.toNat % 4 = 0 ∧
      s.mem.readWord s.cfg.bigEndian s.nextPc.toNat = encode (.mult 8 9)) ∧
    (u.nextPc.toNat % 4 = 0 ∧
      u.mem.readWord u.cfg.bigEndian u.nextPc.toNat = encode (.sll 0 0 0)) := by decide

theorem witness_AsynchronousEntries :
    let s := { kst [] with pendingStoreErrors := 1 }
    let u := { st 0x401 0x80001000 [] with env := { Env.quiet with int := 1#6 } }
    (s.env.reset = none ∧ s.env.parityError = false ∧ s.wrapped = false ∧
      s.pendingStoreErrors ≠ 0 ∧ s.env.deliverStoreError = true) ∧
    (u.env.reset = none ∧ u.env.parityError = false ∧ u.wrapped = false ∧
      u.pendingStoreErrors = 0 ∧ u.interruptPending = true ∧ u.env.takeInterrupt = true) := by
  decide

/-- The last deferral of an interrupt and of a late bus error, in a step that goes on. -/
theorem witness_DeferralEnds :
    let e := { Env.quiet with int := 1#6, takeInterrupt := false, deliverStoreError := false }
    let s := { st 0x401 0x80001000 [] with env := e }.withFetchWord 32 0
    let u := { s with pendingStoreErrors := 1 }
    s.schedule.length < 1 ∧ u.schedule.length < 1 ∧ (∃ t, Runs 1 s t) ∧ (∃ t, Runs 1 u t) ∧
    (nextOf (step s)).map (fun t => (t.wrapped, t.pendingStoreErrors, t.interruptPending)) =
      some (false, 0, true) ∧
    (nextOf (step u)).map (fun t => (t.wrapped, t.pendingStoreErrors)) = some (false, 1) :=
  ⟨by decide, by decide, (exists_next (by decide)).imp fun t h => ⟨t, h, rfl⟩,
    (exists_next (by decide)).imp fun t h => ⟨t, h, rfl⟩, by decide, by decide⟩

theorem witness_FetchDebugTrap :
    let s := { kst [] with bpc := 0x80001000#32, dcic := 0xA1800000#32 }
    let u := { kst [] with arrival := .target, dcic := 0xB0800000#32 }
    (Quiet s ∧ FetchSettled s ∧ s.addressError s.pc 4 = false ∧ s.pcHit s.pc = true ∧
      s.debugTraps = true) ∧
    (Quiet u ∧ FetchSettled u ∧ u.addressError u.pc 4 = false ∧ u.traceHit = true ∧
      u.debugTraps = true) := by
  simp only [Quiet, FetchSettled]; decide

/-- An instruction that goes on, one that faults and one that is refused. -/
theorem witness_StepRunsInstruction :
    let s := (kst []).withFetchWord 32 0x3C080001
    (Quiet s ∧ FetchGoes s ∧
      decode (s.mem.readWord s.cfg.bigEndian s.pc.toNat) = .ok (.lui 8 1) ∧
      WordSettled s (s.mem.readWord s.cfg.bigEndian s.pc.toNat)) ∧
    (nextOf (exec (.lui 8 1) s.fetchPosted)).isSome = true ∧
    refusalOf (exec (.jalr 8 8) s.fetchPosted) = some .jalrSameRegister ∧
    (let u := { s with cfg := { s.cfg with
        memoryMap := [⟨0, 2 ^ 32, [4], true, false, false⟩], berrMap := [] } };
      FetchGoes u ∧ (nextOf (exec (.lw 8 0 0) u.fetchPosted)).isSome = false ∧
        refusalOf (exec (.lw 8 0 0) u.fetchPosted) = none) := by
  simp only [Quiet, FetchGoes, WordSettled]; decide

/-- Each way a fetch stops; the instruction at the top of the address space, in the slot of a taken
branch too, and the one before it. -/
theorem witness_FetchStops :
    let s := kst []
    let p := st 0 0xFFFFFFFC []
    (after (.lui 5 1) p (fun t => (t.arrival, t.wrapped)) = some (.sequential, true) ∧
      after (.lui 5 1) { p with delay := .slot true 0#32 } (fun t => (t.arrival, t.wrapped)) =
        some (.target, false) ∧
      after (.j 0) p (fun t => (t.arrival, t.wrapped)) = some (.sequential, true) ∧
      after (.lui 5 1) (st 0 0xFFFFFFF8 []) (fun t => (t.arrival, t.wrapped)) =
        some (.sequential, false)) ∧
    let b := { s with env := { Env.quiet with berrFetch := true } }
    (s.env.reset = none ∧ s.env.parityError = false ∧ { s with wrapped := true }.wrapped = true) ∧
    (s.wrapped = false ∧ s.storeErrorDue = false ∧ s.interruptTaken = false ∧ FetchSettled s ∧
      s.addressError s.pc 4 = false ∧ s.traceHit = false ∧ s.pcHit s.pc = false) ∧
    (platformAnswers (unmapped s true).cfg s.pc.toNat 4 .fetch = false ∧
      berrPromised (unmapped s true).cfg s.pc.toNat 4 .fetch = true) ∧
    berrPromised (unmapped s false).cfg s.pc.toNat 4 .fetch = false ∧
    (platformAnswers b.cfg b.pc.toNat 4 .fetch = true ∧ b.env.berrFetch = true) ∧
    { s with stored := [0x80001003] }.storedIn s.pc.toNat 4 = true := by
  simp only [FetchSettled]; decide

theorem witness_ParityError :
    let s := { kst [] with env := { Env.quiet with parityError := true } }
    s.env.reset = none ∧ s.env.parityError = true := by decide

theorem witness_ResetEvents :
    { kst [] with env := { Env.quiet with reset := some ⟨.cold, [], true⟩ } }.env.reset =
      some ⟨.cold, [], true⟩ := by decide

/-- A state that satisfies the invariant and makes a step. -/
theorem witness_InvariantKept :
    (State.reset.withFetchWord 32 0x3C080001).Inv ∧
    ∃ t, step (State.reset.withFetchWord 32 0x3C080001) = .next t :=
  ⟨⟨by decide, by decide, by decide, by decide, by decide, by decide, by decide, by decide,
    by decide, by decide, by decide, by decide⟩, exists_next (by decide)⟩

theorem witness_OutsideUnchanged :
    ∃ t, step (State.reset.withFetchWord 32 0x3C080001) = .next t :=
  exists_next (by decide)

/-- A user-mode store that goes on, at the highest user address. -/
theorem witness_KernelMemoryProtected :
    let s := (st 2 0x1000 [(4, 0x7FFFFFFC)]).withFetchWord 32 0xAC840000
    s.sr.getLsbD 1 = true ∧ s.env.reset = none ∧ ∃ t, step s = .next t :=
  ⟨by decide, by decide, exists_next (by decide)⟩

/-- In user mode, an instruction that goes on and one that enters the kernel. -/
theorem witness_UserModeConfined :
    let s := (st 2 0x1000 []).withFetchWord 32 0x3C080001
    let u := (st 2 0x1000 []).withFetchWord 32 0x0000000C
    (s.sr.getLsbD 1 = true ∧ s.sr.getLsbD 28 = false ∧ s.env.reset = none ∧
      ∃ t, step s = .next t) ∧ ∃ t, step u = .next t :=
  ⟨⟨by decide, by decide, by decide, exists_next (by decide)⟩, exists_next (by decide)⟩

end Sys2Proof.Machine.Tests
end

section
/-! PROOFS. The statements of 10_state.md: what MTC0 and MFC0 do at a CP0 register that exists, the
bits of SR and DCIC after a write, and the vectors. -/

namespace Sys2Proof.Machine

/-! ### Moves to and from a CP0 register that exists (41_system_cp0.md R124, R126) -/

theorem exec_mtc0_reg {s : State} {n : Reg} {c : Cp0Reg} (rt : Reg) (hu : s.usable 0#2 = true)
    (hn : cp0Number n = .reg c) : exec (.mtc0 rt n) s = .next (s.moveToCp0 c (s.rtVal rt)) := by
  simp [exec, execMtc0, hu, hn]

theorem exec_mfc0_reg {s : State} {n : Reg} {c : Cp0Reg} (rt : Reg) (hu : s.usable 0#2 = true)
    (hn : cp0Number n = .reg c) :
    exec (.mfc0 rt n) s = .next (s.loadAndAdvance rt (s.readCp0 c)) := by
  simp [exec, execMfc0, hu, hn]

/-- The load delay of the instruction before decides what the register reads, the one that starts
here does not (70_reset_and_hazards.md R270). -/
theorem written_loadAndAdvance (s : State) (r : Reg) (v : Word) :
    Written s (s.loadAndAdvance r v) r v := by
  have hgpr : (s.loadAndAdvance r v).gpr r = (s.writeGpr r v).gpr r := rfl
  rw [Written, hgpr, gpr_writeGpr]
  by_cases hr : r = 0#5 <;> simp [hr]

/-- MFC0 of a register that exists reads it. -/
theorem mfc0_written {s : State} {n : Reg} {c : Cp0Reg} (rt : Reg) (hu : s.usable 0#2 = true)
    (hn : cp0Number n = .reg c) :
    ∃ t, exec (.mfc0 rt n) s = .next t ∧ Written s t rt (s.readCp0 c) :=
  ⟨_, exec_mfc0_reg rt hu hn, written_loadAndAdvance s rt _⟩

@[simp] theorem moveToCp0_sr (s : State) (v : Word) : (s.moveToCp0 .sr v).sr = writeSr s.sr v := rfl

@[simp] theorem moveToCp0_dcic (s : State) (v : Word) :
    (s.moveToCp0 .dcic v).dcic = v &&& dcicDefined := rfl

/-! ### The masks, bit by bit (10_state.md R29, R39) -/

theorem srWriteMask_bit {i : Nat} : srWriteMask.getLsbD i = true ↔
    28 ≤ i ∧ i ≤ 31 ∨ i = 22 ∨ i = 18 ∨ i = 16 ∨ 8 ≤ i ∧ i ≤ 15 ∨ i ≤ 5 := by
  by_cases hi : i < 32
  · have all : ∀ j : Fin 32, srWriteMask.getLsbD j = true ↔
        28 ≤ j.val ∧ j.val ≤ 31 ∨ j.val = 22 ∨ j.val = 18 ∨ j.val = 16 ∨
          8 ≤ j.val ∧ j.val ≤ 15 ∨ j.val ≤ 5 := by decide
    exact all ⟨i, hi⟩
  · rw [BitVec.getLsbD_of_ge _ _ (by omega)]
    simp only [Bool.false_eq_true, false_iff]
    omega

theorem srPe_bit (i : Nat) : srPe.getLsbD i = decide (i = 20) := by
  have hpe : srPe = BitVec.twoPow 32 20 := by decide
  rw [hpe, BitVec.getLsbD_twoPow]
  simp [eq_comm]

/-- The bits of SR that exist are those written and PE. -/
theorem srDefined_eq : srDefined = srWriteMask ||| srPe := by decide

/-- The reserved bits of SR and TS, as R23, R25 and R29 number them. -/
theorem srReserved_eq : 0x0FAA00C0#32 = ~~~srDefined := by decide

theorem dcicDefined_bit {i : Nat} (hi : i < 32) :
    dcicDefined.getLsbD i = true ↔ i ≤ 5 ∨ 23 ≤ i := by
  have all : ∀ j : Fin 32, dcicDefined.getLsbD j = true ↔ j.val ≤ 5 ∨ 23 ≤ j.val := by decide
  exact all ⟨i, hi⟩

/-- Each bit of SR after a write of `v` (R29): PE is write-one-to-clear. -/
theorem writeSr_bit (old v : Word) (i : Nat) : (writeSr old v).getLsbD i =
    if i = 20 then old.getLsbD i && !v.getLsbD i
    else if srWriteMask.getLsbD i then v.getLsbD i else old.getLsbD i := by
  by_cases hi : i < 32
  · simp only [writeSr, BitVec.getLsbD_and, BitVec.getLsbD_or, BitVec.getLsbD_not, srPe_bit, hi]
    by_cases hpe : i = 20
    · have hm : srWriteMask.getLsbD 20 = false := by decide
      rw [hpe, hm]
      simp
    · cases hm : srWriteMask.getLsbD i <;> simp [hpe]
  · simp [BitVec.getLsbD_of_ge _ i (Nat.le_of_not_lt hi)]

/-- A bit that SR holds after a write is one of the writable bits or PE, if SR held no other
before. -/
theorem writable_or_pe_of_writeSr_bit {sr v : Word} {i : Nat} (h : sr &&& ~~~srDefined = 0#32)
    (hi : (writeSr sr v).getLsbD i = true) : srWriteMask.getLsbD i = true ∨ i = 20 := by
  have hd := outside_mask_eq_zero.mp (writeSr_keeps v h) i hi
  simpa [srDefined_eq, srPe_bit] using hd

/-! ### The statements -/

/-- Settles O36, bit by bit: `writeSr_bit` gives the bits that are written,
`writable_or_pe_of_writeSr_bit` that no other is set. -/
theorem statusWrite : Obligations.StatusWrite := by
  refine ⟨fun s rt hu hres => ⟨_, exec_mtc0_reg rt hu rfl, fun i hi => ?writable, ?pe,
    fun i hi => ?reserved, rfl⟩, fun u r hu => ?read⟩
  case writable =>
    rw [moveToCp0_sr, writeSr_bit, if_neg (by omega), if_pos (srWriteMask_bit.mpr hi)]
  case pe =>
    rw [moveToCp0_sr, writeSr_bit, if_pos rfl]
    cases (s.rtVal rt).getLsbD 20 <;> simp
  case reserved =>
    rw [moveToCp0_sr, ← Bool.not_eq_true]
    intro hset
    rw [srReserved_eq] at hres
    have hdef := writable_or_pe_of_writeSr_bit hres hset
    rw [srWriteMask_bit] at hdef
    omega
  case read =>
    rw [srReserved_eq, BitVec.not_not]
    exact mfc0_written (c := .sr) r hu rfl

/-- Settles O37: the bits of `dcicDefined` are those written and those read. -/
theorem dcicWrite : Obligations.DcicWrite := by
  refine ⟨fun s rt hu => ⟨_, exec_mtc0_reg rt hu rfl, rfl, fun i hi => ?_, fun i hi => ?_⟩,
    fun u r hu => mfc0_written (c := .dcic) r hu rfl⟩
  · by_cases h32 : i < 32
    · simp [(dcicDefined_bit h32).mpr hi]
    · simp [BitVec.getLsbD_of_ge _ i (Nat.le_of_not_lt h32)]
  · have hm : ¬ dcicDefined.getLsbD i = true := fun h => by
      have := (dcicDefined_bit (by omega)).mp h
      omega
    simp [hm]

/-- An entry leaves the handler in kernel mode: the push puts zeros in the current pair
(60_exceptions.md R204). -/
theorem enter_kernel (s : State) (e : Exc) (vector : Word) :
    (s.enter e vector).sr.getLsbD 1 = false := by
  rw [enter_sr, pushStatus_bit, if_pos (by decide)]

/-- Where the two kinds of entry go (R24, 60_exceptions.md R206): BEV is read before the push. -/
theorem entry_pc_of_bev {s : State} {b : Bool} (e : Exc) (hb : s.sr.getLsbD 22 = b) :
    (s.raise e).pc = (if b then 0xBFC00180#32 else 0x80000080#32) ∧
      s.raiseDebug.pc = (if b then 0xBFC00140#32 else 0x80000040#32) := by
  subst hb
  exact ⟨rfl, rfl⟩

/-- Settles O43, from the vectors of an entry (`entry_pc_of_bev`), its mode (`enter_kernel`) and the
reset values of pc and SR. -/
theorem vectors : Obligations.Vectors := by
  intro s e ev
  have reset_bev : (s.resetBy ev).sr.getLsbD 22 = true := by
    rw [resetBy_sr]
    decide
  exact ⟨resetBy_pc s ev, reset_bev, entry_pc_of_bev e, entry_pc_of_bev e, enter_kernel s e _,
    enter_kernel s .bp _⟩

end Sys2Proof.Machine
end

section
/-! PROOFS. The statements of 30_encoding.md: the decoder and the encoder are inverse to each
other, on words and on bytes. -/

namespace Sys2Proof

/-! ### The branches of the decoder (30_encoding.md R85) -/

theorem decode_of_op_special {w : Word} (hop : opField w = 0#6) : decode w = decodeSpecial w := by
  simp [decode, hop]

theorem decode_of_op_cop0 {w : Word} (hop : opField w = 16#6) : decode w = decodeCop0 w := by
  simp [decode, hop]

theorem whenUnusedZero_true (i : Instr) : whenUnusedZero true i = .ok i := rfl

theorem whenUnusedZero_eq_ok {zero : Bool} {i j : Instr} :
    whenUnusedZero zero i = .ok j ↔ zero = true ∧ i = j := by
  cases zero <;> simp [whenUnusedZero]

/-- RFE's word has 16 in `w[25:21]`, which no other coprocessor 0 row has (R85). -/
theorem ne_rfe_of_rsField_ne {w : Word} (hrs : rsField w ≠ 16#5) : w ≠ 0x42000010#32 := by
  rintro rfl
  exact hrs (by decide)

theorem decodeCopBranch_encodeI_false (op : BitVec 6) (imm : Half)
    (ifFalse ifTrue : Half → Instr) :
    decodeCopBranch (encodeI op 8#5 0#5 imm) ifFalse ifTrue = .ok (ifFalse imm) := by
  simp [decodeCopBranch]

theorem decodeCopBranch_encodeI_true (op : BitVec 6) (imm : Half)
    (ifFalse ifTrue : Half → Instr) :
    decodeCopBranch (encodeI op 8#5 1#5 imm) ifFalse ifTrue = .ok (ifTrue imm) := by
  simp [decodeCopBranch]

/-! ### Decoding what the encoder writes -/

/-- Settles O1, branch by branch of the decoder: the fields of each format give back what was
encoded, and the fields that the row fixes at zero are zero. -/
theorem decodeOfEncode : Obligations.DecodeOfEncode := by
  intro i
  cases i
  case rfe => decide
  case mfc0 | mtc0 | bc0f | bc0t =>
    rw [encode, decode_of_op_cop0 (by simp), decodeCop0, if_neg (ne_rfe_of_rsField_ne (by simp))]
    simp [whenUnusedZero_true, decodeCopBranch_encodeI_false, decodeCopBranch_encodeI_true]
  case bc1f | bc1t | bc2f | bc2t | bc3f | bc3t =>
    simp [encode, decode, decodeCopBranch_encodeI_false, decodeCopBranch_encodeI_true]
  case j | jal | bgez | beq | bne | addi | addiu | andi | ori | lui | lh | lw | lhu | sh | sw =>
    simp [encode, decode, whenUnusedZero_true]
  -- what is left are the rows of SPECIAL
  all_goals
    rw [encode, decode_of_op_special (by simp)]
    simp [decodeSpecial, whenUnusedZero_true]

/-! ### Encoding what the decoder reads -/

/-- The number that a field matches in the decoder is its value. -/
theorem eq_ofNat_of_toNat_eq {x : BitVec 6} {n : Nat} (h : x.toNat = n) : x = BitVec.ofNat 6 n := by
  rw [← h, BitVec.ofNat_toNat, BitVec.setWidth_eq]

/-- SPECIAL: SYSCALL and BREAK have the BRK format, every other row is in the R format and fixes the
fields that it does not use at zero. -/
theorem encode_of_decodeSpecial {w : Word} {i : Instr} (hop : opField w = 0#6)
    (h : decodeSpecial w = .ok i) : encode i = w := by
  have hr := encodeR_fields w
  have hbrk := encodeBrk_fields w hop
  unfold decodeSpecial at h
  split at h
  case h_6 hf | h_7 hf => -- SYSCALL, BREAK
    cases h
    rw [eq_ofNat_of_toNat_eq hf] at hbrk
    exact hbrk
  case h_22 => cases h -- no row
  all_goals
    rename_i hf
    obtain ⟨hzero, rfl⟩ := whenUnusedZero_eq_ok.mp h
    simp only [Bool.and_eq_true, beq_iff_eq] at hzero
    rw [hop, eq_ofNat_of_toNat_eq hf] at hr
    simpa only [encode, hzero] using hr

/-- A coprocessor branch, whose two instructions differ in `rt` only. -/
theorem encode_of_decodeCopBranch {w : Word} {i : Instr} {ifFalse ifTrue : Half → Instr}
    (hfalse : ∀ imm, encode (ifFalse imm) = encodeI (opField w) 8#5 0#5 imm)
    (htrue : ∀ imm, encode (ifTrue imm) = encodeI (opField w) 8#5 1#5 imm)
    (h : decodeCopBranch w ifFalse ifTrue = .ok i) : encode i = w := by
  unfold decodeCopBranch at h
  split at h
  case isTrue hc =>
    obtain ⟨hrs, hrt⟩ := hc
    cases h
    rw [hfalse, ← hrs, ← hrt, encodeI_fields]
  case isFalse =>
    split at h
    case isTrue hc =>
      obtain ⟨hrs, hrt⟩ := hc
      cases h
      rw [htrue, ← hrs, ← hrt, encodeI_fields]
    case isFalse => cases h

/-- MFC0 and MTC0, whose words end in eleven zeros. -/
theorem encode_of_cop0Move {w : Word} {i move : Instr}
    (hmove : encode move = encodeR (opField w) (rsField w) (rtField w) (rdField w) 0#5 0#6)
    (h : whenUnusedZero (shamtField w == 0#5 && functField w == 0#6) move = .ok i) :
    encode i = w := by
  obtain ⟨hzero, rfl⟩ := whenUnusedZero_eq_ok.mp h
  simp only [Bool.and_eq_true, beq_iff_eq] at hzero
  obtain ⟨hsh, hf⟩ := hzero
  rw [hmove, ← hsh, ← hf, encodeR_fields]

theorem encode_of_decodeCop0 {w : Word} {i : Instr} (hop : opField w = 16#6)
    (h : decodeCop0 w = .ok i) : encode i = w := by
  unfold decodeCop0 at h
  split at h
  case isTrue hw =>
    cases h
    exact hw.symm
  split at h
  case isTrue hrs => exact encode_of_cop0Move (by rw [hop, hrs, encode]) h
  split at h
  case isTrue hrs => exact encode_of_cop0Move (by rw [hop, hrs, encode]) h
  case isFalse =>
    exact encode_of_decodeCopBranch (fun _ => by rw [hop, encode]) (fun _ => by rw [hop, encode]) h

/-- Settles O2, branch by branch of the decoder: a word is the format of its fields
(`encodeR_fields` and the like), and the decoder fixes those that are no operand. -/
theorem encodeOfDecode : Obligations.EncodeOfDecode := by
  intro w i h
  have hi := encodeI_fields w
  have hj := encodeJ_fields w
  dsimp only [decode] at h
  split at h
  case h_21 => cases h -- no row
  all_goals
    rename_i hop
    replace hop := eq_ofNat_of_toNat_eq hop
    rw [hop] at hi hj
  case h_1 => exact encode_of_decodeSpecial hop h -- SPECIAL
  case h_12 => exact encode_of_decodeCop0 hop h -- coprocessor 0
  case h_13 | h_14 | h_15 => -- coprocessors 1 to 3
    exact encode_of_decodeCopBranch (fun _ => by rw [hop, encode]) (fun _ => by rw [hop, encode]) h
  case h_2 => -- BGEZ
    split at h
    case isTrue hrt =>
      cases h
      rw [hrt] at hi
      exact hi
    case isFalse => cases h
  case h_3 | h_4 => -- J, JAL
    cases h
    exact hj
  case h_11 => -- LUI
    obtain ⟨hrs, rfl⟩ := whenUnusedZero_eq_ok.mp h
    rw [beq_iff_eq.mp hrs] at hi
    exact hi
  -- what is left are rows of the I format with three operands
  all_goals
    cases h
    exact hi

/-! ### Bytes (20_memory.md R54) -/

/-- The four bytes of a word, joined from the highest down, are the word. -/
theorem append_bytes (w : Word) : w.extractLsb' 24 8 ++ w.extractLsb' 16 8 ++
    w.extractLsb' 8 8 ++ w.extractLsb' 0 8 = w := by
  apply BitVec.eq_of_toNat_eq
  simp only [toNat_append_eq, extract_toNat, Nat.reducePow]
  omega

/-- At the bytes of a word, in either byte order, the decoder reads the word and leaves the bytes
after it. -/
theorem decodeBytes_wordBytes (bigEndian : Bool) (w : Word) (rest : List Byte) :
    decodeBytes bigEndian (wordBytes bigEndian w ++ rest) = (decode w).map fun i => (i, rest) := by
  cases bigEndian <;> simp [wordBytes, decodeBytes, joinWord, append_bytes]

/-- Settles O3, from the round trip through words (O1) and `decodeBytes_wordBytes`. -/
theorem decodeBytesOfEncode : Obligations.DecodeBytesOfEncode := by
  intro bigEndian i rest
  rw [decodeBytes_wordBytes, decodeOfEncode i]
  rfl

end Sys2Proof
end

section
/-! PROOFS. The example words of the loads and stores and of the other rules. -/

namespace Sys2Proof

/-- A word that is known to be the encoding of an instruction decodes to it. -/
theorem decode_of_encode_eq {w : Word} {i : Instr} (h : encode i = w) : decode w = .ok i :=
  h ▸ decodeOfEncode i

/-- Settles O4, from the round trip (O1): each word is the format of its row with the fields that
the example names. -/
theorem exampleWordsDecode : Obligations.ExampleWordsDecode := by
  have hlw : encode (.lw 1 3 0) = 0x8C610000#32 := by decide
  have hlh : encode (.lh 8 4 2) = 0x84880002#32 := by decide
  have hsw : encode (.sw 1 29 8) = 0xAFA10008#32 := by decide
  have hmfc0 : encode (.mfc0 26 13) = 0x401A6800#32 := by decide
  have hmtc0 : encode (.mtc0 27 12) = 0x409B6000#32 := by decide
  have hrfe : encode .rfe = 0x42000010#32 := by decide
  have hadd : encode (.add 10 8 9) = 0x01095020#32 := by decide
  have hsll : encode (.sll 26 26 15) = 0x001AD3C0#32 := by decide
  have hmult : encode (.mult 8 9) = 0x01090018#32 := by decide
  have hbeq : encode (.beq 27 0 3) = 0x13600003#32 := by decide
  have hjal : encode (.jal 0x400) = 0x0C000400#32 := by decide
  have hbc2f : encode (.bc2f 4) = 0x49000004#32 := by decide
  exact ⟨decode_of_encode_eq hlw, decode_of_encode_eq hlh, decode_of_encode_eq hsw,
    decode_of_encode_eq hmfc0, decode_of_encode_eq hmtc0, decode_of_encode_eq hrfe,
    decode_of_encode_eq hadd, decode_of_encode_eq hsll, decode_of_encode_eq hmult,
    decode_of_encode_eq hbeq, decode_of_encode_eq hjal, decode_of_encode_eq hbc2f⟩

end Sys2Proof
end

section
/-! PROOFS. The statements of 42_arithmetic.md: overflow, exact and by the sign bits, and the
instructions that trap on it. -/

namespace Sys2Proof.Machine

/-! ### Overflow, exact and by the sign bits (42_arithmetic.md R139) -/

theorem not_fitsWord_iff {n : Int} : ¬ FitsWord n ↔ 2 ^ 31 ≤ n ∨ n < -2 ^ 31 := by
  unfold FitsWord
  omega

theorem addOverflows_iff_msb (a b : Word) :
    addOverflows a b = true ↔ a.msb = b.msb ∧ (a + b).msb ≠ a.msb := by
  simp [addOverflows]

theorem subOverflows_iff_msb (a b : Word) :
    subOverflows a b = true ↔ a.msb ≠ b.msb ∧ (a - b).msb ≠ a.msb := by
  simp [subOverflows]

/-- The model's test is the library's, whose definition is the exact sum's range. -/
theorem addOverflows_eq_saddOverflow (a b : Word) : addOverflows a b = a.saddOverflow b :=
  (BitVec.saddOverflow_eq a b).symm

theorem subOverflows_eq_ssubOverflow (a b : Word) : subOverflows a b = a.ssubOverflow b := by
  rw [BitVec.ssubOverflow_eq, subOverflows]
  cases a.msb <;> cases b.msb <;> simp

theorem addOverflows_iff (a b : Word) :
    addOverflows a b = true ↔ ¬ FitsWord (a.toInt + b.toInt) := by
  simp [addOverflows_eq_saddOverflow, BitVec.saddOverflow, not_fitsWord_iff]

theorem subOverflows_iff (a b : Word) :
    subOverflows a b = true ↔ ¬ FitsWord (a.toInt - b.toInt) := by
  simp [subOverflows_eq_ssubOverflow, BitVec.ssubOverflow, not_fitsWord_iff]

/-- Sign extension keeps the immediate's value (30_encoding.md R84). -/
theorem signImm_toInt (imm : Half) : (signImm imm).toInt = imm.toInt :=
  BitVec.toInt_signExtend_of_le (by decide)

/-! ### The instructions that trap (R140, R142, R146) -/

/-- The next fetch comes from a vector after an entry and not after an advance
(60_exceptions.md R235), so no register write can pass for an entry. -/
theorem writeAndAdvance_ne_raise (s : State) (r : Reg) (v : Word) (e : Exc) :
    s.writeAndAdvance r v ≠ s.raise e := by
  intro h
  have harrival := congrArg State.arrival h
  rw [writeAndAdvance_eq, raise_eq_enter, advance_arrival, enter_arrival] at harrival
  split at harrival <;> cases harrival

theorem trapping_eq_raise_iff {s : State} {c : Bool} {r : Reg} {v : Word} {e : Exc} :
    (if c then .next (s.raise e) else .next (s.writeAndAdvance r v)) =
      (.next (s.raise e) : Result) ↔ c = true := by
  cases c with
  | true => exact iff_of_true rfl rfl
  | false =>
    exact iff_of_false (fun h => writeAndAdvance_ne_raise s r v e (Host.Outcome.next.inj h))
      Bool.false_ne_true

theorem exec_add_raises_iff (s : State) (rd rs rt : Reg) :
    exec (.add rd rs rt) s = .next (s.raise .ovf) ↔
      ¬ FitsWord ((s.rsVal rs).toInt + (s.rtVal rt).toInt) :=
  trapping_eq_raise_iff.trans (addOverflows_iff _ _)

theorem exec_sub_raises_iff (s : State) (rd rs rt : Reg) :
    exec (.sub rd rs rt) s = .next (s.raise .ovf) ↔
      ¬ FitsWord ((s.rsVal rs).toInt - (s.rtVal rt).toInt) :=
  trapping_eq_raise_iff.trans (subOverflows_iff _ _)

theorem exec_addi_raises_iff (s : State) (rt rs : Reg) (imm : Half) :
    exec (.addi rt rs imm) s = .next (s.raise .ovf) ↔
      ¬ FitsWord ((s.rsVal rs).toInt + imm.toInt) := by
  rw [← signImm_toInt]
  exact trapping_eq_raise_iff.trans (addOverflows_iff _ _)

/-- Settles O13: the model's test is at once the formulation by sign bits and the exact one
(`addOverflows_iff`, `subOverflows_iff`), each instruction branches on it, and an advance is no
entry (`writeAndAdvance_ne_raise`). -/
theorem overflow : Obligations.Overflow := by
  refine ⟨fun a b => ⟨?_, ?_⟩, fun s rd rs rt imm => ⟨?_, ?_, ?_, fun r => ?_⟩⟩
  · exact (addOverflows_iff a b).symm.trans (addOverflows_iff_msb a b)
  · exact (subOverflows_iff a b).symm.trans (subOverflows_iff_msb a b)
  · exact exec_add_raises_iff s rd rs rt
  · exact exec_sub_raises_iff s rd rs rt
  · exact exec_addi_raises_iff s rt rs imm
  · exact gpr_enter s .ovf s.generalVector r

end Sys2Proof.Machine
end

section
/-! PROOFS. The statements of 60_exceptions.md on the Status stack that every entry pushes and on
when an interrupt is pending. -/

namespace Sys2Proof.Machine

/-! ### The Status stack (60_exceptions.md R204, 41_system_cp0.md R128) -/

/-- Words with the same bits from `lo` on have the same field there. -/
theorem extract_eq_of_bits {a b : Word} {lo len : Nat}
    (h : ∀ i < len, a.getLsbD (lo + i) = b.getLsbD (lo + i)) :
    a.extractLsb' lo len = b.extractLsb' lo len := by
  apply BitVec.eq_of_getLsbD_eq
  intro i hi
  rw [BitVec.getLsbD_extractLsb', BitVec.getLsbD_extractLsb', h i hi]

/-- The push moves the current and previous pairs up by one and clears the current pair. -/
theorem pushStatus_stack (sr : Word) :
    (pushStatus sr).extractLsb' 0 6 = sr.extractLsb' 0 4 ++ 0#2 := by
  apply BitVec.eq_of_getLsbD_eq
  intro i hi
  rw [BitVec.getLsbD_extractLsb', Nat.zero_add, pushStatus_bit, BitVec.getLsbD_append,
    BitVec.getLsbD_extractLsb']
  by_cases h2 : i < 2
  · simp [h2]
  · have h4 : i - 2 < 4 := by omega
    simp [hi, h2, h4]

/-- The push leaves the bits of SR above the Status stack alone. -/
theorem pushStatus_rest (sr : Word) : (pushStatus sr).extractLsb' 6 26 = sr.extractLsb' 6 26 :=
  extract_eq_of_bits fun i _ => by
    rw [pushStatus_bit, if_neg (by omega), if_neg (by omega)]

/-- A pop takes back a push, but for the old pair, which the push lost. -/
theorem popStatus_pushStatus_bit (sr : Word) {i : Nat} (hi : i < 4) :
    (popStatus (pushStatus sr)).getLsbD i = sr.getLsbD i := by
  rw [popStatus_bit, if_pos hi, pushStatus_bit, if_neg (by omega), if_pos (by omega),
    Nat.add_sub_cancel]

/-- The pop takes back the push on the current and previous pairs. -/
theorem popStatus_pushStatus (sr : Word) :
    (popStatus (pushStatus sr)).extractLsb' 0 4 = sr.extractLsb' 0 4 :=
  extract_eq_of_bits fun i hi => by
    rw [Nat.zero_add, popStatus_pushStatus_bit sr hi]

/-- Two pops take back two pushes on the current pair: the first pop restores the four bits that the
first push left. -/
theorem popStatus_popStatus_pushStatus_pushStatus (sr : Word) :
    (popStatus (popStatus (pushStatus (pushStatus sr)))).extractLsb' 0 2 =
      sr.extractLsb' 0 2 :=
  extract_eq_of_bits fun i hi => by
    calc (popStatus (popStatus (pushStatus (pushStatus sr)))).getLsbD (0 + i)
      _ = (popStatus (pushStatus (pushStatus sr))).getLsbD (i + 2) := by
        rw [Nat.zero_add, popStatus_bit, if_pos (by omega)]
      _ = (pushStatus sr).getLsbD (i + 2) := popStatus_pushStatus_bit _ (by omega)
      _ = sr.getLsbD (0 + i) := by
        rw [pushStatus_bit, if_neg (by omega), if_pos (by omega), Nat.add_sub_cancel, Nat.zero_add]

/-- Every entry, general or debug, pushes the Status stack. -/
theorem entry_sr {s t : State} (h : (∃ e, t = s.raise e) ∨ t = s.raiseDebug) :
    t.sr = pushStatus s.sr := by
  rcases h with ⟨e, rfl⟩ | rfl
  · exact enter_sr s e s.generalVector
  · exact enter_sr s .bp s.debugVector

/-- Settles O42: every entry pushes (`entry_sr`), so each clause is one about `pushStatus` and
`popStatus`. -/
theorem statusPush : Obligations.StatusPush := by
  refine ⟨fun s t ht => ?_, by decide⟩
  have bit := pushStatus_bit s.sr
  simp only [popStatusStack_sr, entry_sr ht]
  refine ⟨bit 5, bit 4, bit 3, bit 2, bit 1, bit 0, pushStatus_stack s.sr, pushStatus_rest s.sr,
    popStatus_pushStatus s.sr, fun u hu => ?_⟩
  rw [entry_sr hu, entry_sr ht]
  exact popStatus_popStatus_pushStatus_pushStatus s.sr

/-! ### Interrupts (60_exceptions.md R226, R227) -/

/-- The two requests at the bottom are the software interrupts. -/
theorem interruptRequests_software (s : State) {i : Nat} (hi : i < 2) :
    s.interruptRequests.getLsbD i = s.cause.sw.getLsbD i := by
  rw [State.interruptRequests, BitVec.getLsbD_append, if_pos hi]

/-- The requests above them are the interrupt pins, unless INTMASK hides them. -/
theorem interruptRequests_hardware (s : State) (i : Nat) :
    s.interruptRequests.getLsbD (2 + i) = (!s.env.intMask && s.env.int.getLsbD i) := by
  rw [State.interruptRequests, BitVec.getLsbD_append, if_neg (by omega), Nat.add_sub_cancel_left]
  cases s.env.intMask <;> simp

/-- Each of the eight mask bits is a bit of SR (10_state.md R27). -/
theorem intMaskBits_bit (s : State) {i : Nat} (hi : i < 8) :
    s.intMaskBits.getLsbD i = s.sr.getLsbD (8 + i) := by
  rw [State.intMaskBits, BitVec.getLsbD_extractLsb', decide_eq_true hi, Bool.true_and]

/-- Two bytes meet exactly when a bit is set in both. -/
theorem and_ne_zero_iff_bit {a b : Byte} :
    a &&& b ≠ 0#8 ↔ ∃ i < 8, a.getLsbD i = true ∧ b.getLsbD i = true := by
  simp [BitVec.eq_of_getLsbD_eq_iff]

/-- An interrupt is pending exactly when interrupts are enabled and one of the eight requests has
its mask bit set. -/
theorem interruptPending_iff (s : State) : s.interruptPending = true ↔ s.sr.getLsbD 0 = true ∧
    ∃ i < 8, s.interruptRequests.getLsbD i = true ∧ s.sr.getLsbD (8 + i) = true := by
  have masked : s.interruptRequests &&& s.intMaskBits ≠ 0#8 ↔
      ∃ i < 8, s.interruptRequests.getLsbD i = true ∧ s.sr.getLsbD (8 + i) = true := by
    rw [and_ne_zero_iff_bit]
    exact exists_congr fun i => and_congr_right fun hi => by rw [intMaskBits_bit s hi]
  rw [State.interruptPending, Bool.and_eq_true, bne_iff_ne, masked, State.iec]

/-- The push clears IEc, so no interrupt is pending after an entry. -/
theorem interruptPending_enter (s : State) (e : Exc) (vector : Word) :
    (s.enter e vector).interruptPending = false := by
  have disabled : (s.enter e vector).iec = false := by
    rw [State.iec, enter_sr, pushStatus_bit, if_pos (by decide)]
  rw [State.interruptPending, disabled, Bool.false_and]

/-- Settles O45: the eight requests of `interruptPending_iff` are the two software sources and, above
them, the six pins; after an entry there is none by `interruptPending_enter`. -/
theorem interruptCondition : Obligations.InterruptCondition := by
  intro s
  refine ⟨(interruptPending_iff s).trans (and_congr_right fun _ => ⟨?split, ?join⟩),
    fun e => interruptPending_enter s e _, interruptPending_enter s .bp _⟩
  case split =>
    rintro ⟨i, hi, hreq, hmask⟩
    by_cases hsw : i < 2
    · rw [interruptRequests_software s hsw] at hreq
      exact .inr ⟨i, hsw, hreq, hmask⟩
    · obtain ⟨j, rfl⟩ := Nat.exists_eq_add_of_le (Nat.le_of_not_lt hsw)
      rw [interruptRequests_hardware, Bool.and_eq_true, Bool.not_eq_true'] at hreq
      obtain ⟨hshown, hpin⟩ := hreq
      exact .inl ⟨j, by omega, hshown, hpin, by rwa [← Nat.add_assoc] at hmask⟩
  case join =>
    rintro (⟨j, hj, hshown, hpin, hmask⟩ | ⟨i, hi, hreq, hmask⟩)
    · refine ⟨2 + j, by omega, ?_, by rwa [← Nat.add_assoc]⟩
      rw [interruptRequests_hardware, hshown, hpin]
      rfl
    · exact ⟨i, by omega, by rwa [interruptRequests_software s hi], hmask⟩

end Sys2Proof.Machine
end

section
/-! PROOFS. Facts about the shared operations that several statements need: the fields a CP0 write
leaves alone, and the states in which an access or a fetch has posted its debug conditions. -/

namespace Sys2Proof.Machine

/-! ### A CP0 write: the fields it never changes (41_system_cp0.md R127) -/

section
variable (s : State) (r : Cp0Reg) (v : Word)

@[simp] theorem writeCp0_pc : (s.writeCp0 r v).pc = s.pc := by cases r <;> rfl
@[simp] theorem writeCp0_delay : (s.writeCp0 r v).delay = s.delay := by cases r <;> rfl
@[simp] theorem writeCp0_mem : (s.writeCp0 r v).mem = s.mem := by cases r <;> rfl
@[simp] theorem writeCp0_arrival : (s.writeCp0 r v).arrival = s.arrival := by cases r <;> rfl
@[simp] theorem writeCp0_hiloGuard : (s.writeCp0 r v).hiloGuard = s.hiloGuard := by
  cases r <;> rfl
@[simp] theorem writeCp0_hiloFollowers : (s.writeCp0 r v).hiloFollowers = s.hiloFollowers := by
  cases r <;> rfl
@[simp] theorem writeCp0_cp0Window : (s.writeCp0 r v).cp0Window = s.cp0Window := by
  cases r <;> rfl
@[simp] theorem writeCp0_env : (s.writeCp0 r v).env = s.env := by cases r <;> rfl
@[simp] theorem writeCp0_schedule : (s.writeCp0 r v).schedule = s.schedule := by cases r <;> rfl
@[simp] theorem writeCp0_cfg : (s.writeCp0 r v).cfg = s.cfg := by cases r <;> rfl
@[simp] theorem writeCp0_nextPc : (s.writeCp0 r v).nextPc = s.nextPc := by cases r <;> rfl

end

/-! ### Posting debug conditions (60_exceptions.md R236) -/

/-- The status bits a fetch posts exist in DCIC. -/
theorem fetchHitBits_defined (s : State) : s.fetchHitBits &&& ~~~dcicDefined = 0#32 := by
  unfold State.fetchHitBits
  split <;> split <;> decide

/-- The status bits a data access posts exist in DCIC. -/
theorem dataHitBits_defined (s : State) (ea : Word) (store : Bool) :
    s.dataHitBits ea store &&& ~~~dcicDefined = 0#32 := by
  unfold State.dataHitBits
  split
  · split <;> decide
  · decide

/-- Posting the conditions of a fetch is what the statements call `fetchPosted`. -/
theorem postDebug_fetchHitBits (s : State) : s.postDebug s.fetchHitBits = s.fetchPosted := by
  have hdcic : (s.postDebug s.fetchHitBits).dcic = s.fetchPosted.dcic := by
    unfold State.fetchPosted
    rw [postDebug_dcic, State.fetchHitBits]
    cases s.traceHit <;> cases s.pcHit s.pc <;> simp [BitVec.or_assoc]
  calc s.postDebug s.fetchHitBits
    _ = { s with dcic := (s.postDebug s.fetchHitBits).dcic } := rfl
    _ = s.fetchPosted := by rw [hdcic]; rfl

/-- Posting the condition of a data access is what the statements call `accessPosted`. -/
theorem postDebug_dataHitBits (s : State) (ea : Word) (store : Bool) :
    s.postDebug (s.dataHitBits ea store) = s.accessPosted ea store := by
  have hdcic : (s.postDebug (s.dataHitBits ea store)).dcic = (s.accessPosted ea store).dcic := by
    unfold State.accessPosted
    rw [postDebug_dcic, State.dataHitBits]
    cases s.daHit ea store <;> cases store <;> simp [BitVec.or_assoc]
  calc s.postDebug (s.dataHitBits ea store)
    _ = { s with dcic := (s.postDebug (s.dataHitBits ea store)).dcic } := rfl
    _ = s.accessPosted ea store := by rw [hdcic]; rfl

/-- A fetch posts something exactly on a hit. -/
theorem fetchHitBits_eq_zero (s : State) :
    s.fetchHitBits = 0#32 ↔ s.traceHit = false ∧ s.pcHit s.pc = false := by
  unfold State.fetchHitBits
  cases s.traceHit <;> cases s.pcHit s.pc <;> simp

/-- A data access posts something exactly on a hit. -/
theorem dataHitBits_eq_zero (s : State) (ea : Word) (store : Bool) :
    s.dataHitBits ea store = 0#32 ↔ s.daHit ea store = false := by
  unfold State.dataHitBits
  cases s.daHit ea store <;> cases store <;> simp

/-- Posting a condition leaves TR, bit 31 of DCIC, alone. -/
theorem fetchPosted_debugTraps (s : State) : s.fetchPosted.debugTraps = s.debugTraps := by
  unfold State.debugTraps State.fetchPosted
  cases s.traceHit <;> cases s.pcHit s.pc <;> simp

end Sys2Proof.Machine
end

section
/-! PROOFS. The machine's invariant (`State.Inv`): it holds at reset, every operation keeps it, so
every instruction and every step does. -/

namespace Sys2Proof.Machine

variable {s t : State}

/-! ### Alignment (10_state.md R14) -/

theorem extract_low_eq_zero {a : Word} : a.extractLsb' 0 2 = 0#2 ↔ a.toNat % 4 = 0 := by
  rw [← BitVec.toNat_inj, BitVec.extractLsb'_toNat]
  simp

/-- The instruction after an aligned one is aligned. -/
theorem add_four_aligned {a : Word} (h : a.extractLsb' 0 2 = 0#2) :
    (a + 4#32).extractLsb' 0 2 = 0#2 := by
  rw [extract_low_eq_zero] at *
  rw [BitVec.toNat_add, BitVec.toNat_ofNat]
  omega

/-- A fetch that is no address error is aligned (60_exceptions.md R213). -/
theorem aligned_of_no_addressError (h : s.addressError s.pc 4 = false) :
    s.pc.extractLsb' 0 2 = 0#2 := by
  rw [extract_low_eq_zero]
  simp only [State.addressError, Bool.or_eq_false_iff, bne_eq_false_iff_eq] at h
  exact h.1

/-- Where execution goes on outside the slot of a taken branch. -/
theorem nextPc_of_not_taken (h : s.delay.taken = false) : s.nextPc = s.pc + 4#32 := by
  unfold State.nextPc
  cases hd : s.delay with
  | none => rfl
  | slot taken g =>
    rw [hd] at h
    obtain rfl : taken = false := h
    rfl

/-! ### Every operation keeps the invariant -/

theorem inv_postDebug {b : Word} (hb : b &&& ~~~dcicDefined = 0#32) (h : s.Inv) :
    (s.postDebug b).Inv where
  __ := h
  dcic := by
    rw [postDebug_dcic]
    split
    · exact h.dcic
    · exact or_keeps (or_keeps h.dcic hb) (by decide)

theorem inv_pendingStoreErrors (n : Nat) (h : s.Inv) :
    State.Inv { s with pendingStoreErrors := n } where
  __ := h

theorem inv_writeGpr (r : Reg) (v : Word) (h : s.Inv) : (s.writeGpr r v).Inv where
  __ := h
  zero := (writeGpr_zero_slot s r v).trans h.zero

theorem inv_hiLo (hi lo : Word) (h : s.Inv) : State.Inv { s with hi := hi, lo := lo } where
  __ := h

theorem inv_loadDelay {d : Option Reg} (hd : d ≠ some 0#5) (h : s.Inv) :
    State.Inv { s with loadDelay := d } where
  __ := h
  loadDelay := hd

theorem inv_putBytes {ea : Word} {bs : List Byte} (hspace : ea.toNat + bs.length ≤ 2 ^ 32)
    (h : s.Inv) : (s.putBytes ea bs).Inv where
  __ := h
  mem := writeBytes_wf bs h.mem hspace
  stored := insertAddresses_wf h.stored hspace

theorem inv_failStore {ea : Word} {w : Width} (hspace : ea.toNat + w.bytes ≤ 2 ^ 32)
    (h : s.Inv) : (s.failStore ea w).Inv :=
  inv_pendingStoreErrors _ (inv_putBytes (by rwa [lostBytes_length]) h)

theorem inv_popStatusStack (h : s.Inv) : s.popStatusStack.Inv where
  __ := h
  sr := popStatus_keeps h.sr

theorem inv_writeCp0 (r : Cp0Reg) (v : Word) (h : s.Inv) : (s.writeCp0 r v).Inv := by
  cases r with
  | sr => exact { h with sr := writeSr_keeps v h.sr }
  | dcic => exact { h with dcic := and_mask_keeps v dcicDefined }
  | bpc | bda | tar | badA | bdam | bpcm | cause | epc | prid => exact { h with }

theorem inv_openCp0Window (r : Cp0Reg) (changed : Word) (pop : Bool) (h : s.Inv) :
    (s.openCp0Window r changed pop).Inv where
  __ := h
  window := by
    intro c hc
    rcases mem_openCp0Window.mp hc with hc | ⟨hchanged, hlatency, rfl⟩
    · exact h.window c hc
    · obtain ⟨-, -, hle⟩ := h.cfg
      exact ⟨hchanged, Nat.one_le_iff_ne_zero.mpr hlatency, hle⟩

/-- An instruction that counts leaves each window of changed bits with one or two more to go. -/
theorem windowAfterInstr_bounds {l : List Cp0Change}
    (h : ∀ c ∈ l, c.changed ≠ 0#32 ∧ 1 ≤ c.left ∧ c.left ≤ 2) :
    ∀ c ∈ windowAfterInstr l, c.changed ≠ 0#32 ∧ 1 ≤ c.left ∧ c.left ≤ 2 := by
  intro c hc
  obtain ⟨d, hd, hleft, rfl⟩ := mem_windowAfterInstr.mp hc
  obtain ⟨hchanged, -, hle⟩ := h d hd
  exact ⟨hchanged, by dsimp only; omega, by dsimp only; omega⟩

/-- An entry closes the windows that it leaves with no bits and keeps the count of the others. -/
theorem windowAfterEntry_bounds {l : List Cp0Change}
    (h : ∀ c ∈ l, c.changed ≠ 0#32 ∧ 1 ≤ c.left ∧ c.left ≤ 2) :
    ∀ c ∈ windowAfterEntry l, c.changed ≠ 0#32 ∧ 1 ≤ c.left ∧ c.left ≤ 2 := by
  intro c hc
  obtain ⟨hchanged, d, hd, rfl⟩ := mem_windowAfterEntry.mp hc
  refine ⟨hchanged, ?_⟩
  split <;> exact (h d hd).2

/-- The instruction at an aligned pc is done; only a branch, which stands in no delay slot, leaves
one. -/
theorem inv_retire {d : Delay} (hpc : s.pc.extractLsb' 0 2 = 0#2)
    (hd : d ≠ .none → s.delay = .none) (h : s.Inv) : (s.retire d).Inv where
  __ := h
  guard := (Nat.sub_le _ _).trans h.guard
  window := windowAfterInstr_bounds h.window
  loadDelay := by simp
  slot := fun hslot => by simp [hd hslot, Delay.taken]
  aligned := by
    rw [retire_arrival, retire_pc]
    cases htaken : s.delay.taken with
    | true => exact .inl rfl
    | false => exact .inr (nextPc_of_not_taken htaken ▸ add_four_aligned hpc)

theorem inv_advance (hpc : s.pc.extractLsb' 0 2 = 0#2) (h : s.Inv) : s.advance.Inv :=
  inv_retire hpc (fun hd => absurd rfl hd) h

theorem inv_loadAndAdvance (r : Reg) (v : Word) (hpc : s.pc.extractLsb' 0 2 = 0#2) (h : s.Inv) :
    (s.loadAndAdvance r v).Inv := by
  refine inv_loadDelay ?_ (inv_advance hpc (inv_writeGpr r v h))
  split
  · simp
  · simpa using ‹¬ r = 0#5›

theorem inv_moveFromHiLo (r : Reg) (v : Word) (hpc : s.pc.extractLsb' 0 2 = 0#2) (h : s.Inv) :
    State.Inv { s.writeAndAdvance r v with
      hiloGuard := 2
      hiloFollowers := s.followersAfterRead } where
  __ := inv_advance (s := s.writeGpr r v) hpc (inv_writeGpr r v h)
  guard := Nat.le_refl 2
  followers := followersAfterRead_wf h.followers

theorem inv_restoreStatus (hpc : s.pc.extractLsb' 0 2 = 0#2) (h : s.Inv) :
    s.restoreStatus.Inv := by
  have hadvance := inv_advance (s := s.popStatusStack) hpc (inv_popStatusStack h)
  rcases restoreStatus_cases s with hr | hr <;> rw [hr]
  · exact hadvance
  · exact inv_openCp0Window _ _ _ hadvance

theorem inv_enter (e : Exc) {vector : Word} (hv : vector.extractLsb' 0 2 = 0#2) (h : s.Inv) :
    (s.enter e vector).Inv where
  __ := h
  sr := pushStatus_keeps h.sr
  window := windowAfterEntry_bounds h.window
  loadDelay := by simp
  slot := fun hslot => absurd rfl hslot
  aligned := .inr hv

theorem inv_raise (e : Exc) (h : s.Inv) : (s.raise e).Inv := by
  refine inv_enter e ?_ h
  unfold State.generalVector
  split <;> decide

theorem inv_raiseDebug (h : s.Inv) : s.raiseDebug.Inv := by
  refine inv_enter .bp ?_ h
  unfold State.debugVector
  split <;> decide

theorem inv_notePar (h : s.Inv) : s.notePar.Inv where
  __ := h
  sr := by
    rw [notePar_sr]
    split
    · exact or_keeps h.sr (by decide)
    · exact h.sr

theorem inv_nextEnv (h : s.Inv) : s.nextEnv.Inv where
  __ := h

theorem inv_resetBy (ev : ResetEvent) (h : s.Inv) : (s.resetBy ev).Inv where
  mem := by rw [resetBy_mem]; exact ofCells_wf ev.memory
  stored := by rw [resetBy_stored]; exact h.stored
  zero := by simp [State.resetBy]
  sr := by rw [resetBy_sr]; decide
  dcic := by rw [resetBy_dcic]; decide
  cfg := by rw [resetBy_cfg]; exact h.cfg
  guard := by rw [resetBy_hiloGuard]; exact Nat.zero_le 2
  followers := by rw [resetBy_hiloFollowers]; exact h.followers
  window := by simp
  loadDelay := by simp
  slot := by simp
  aligned := by rw [resetBy_pc]; exact .inr (by decide)

/-! ### Instructions and steps -/

/-- Every instruction at an aligned pc keeps the invariant. -/
theorem inv_effect (hpc : s.pc.extractLsb' 0 2 = 0#2) (h : s.Inv) (he : Effect s t) : t.Inv := by
  have posted (ea : Word) (store : Bool) : (s.postDebug (s.dataHitBits ea store)).Inv :=
    inv_postDebug (dataHitBits_defined s ea store) h
  cases he with
  | entry e => exact inv_raise e h
  | accessEntry ea store e => exact inv_raise e (posted ea store)
  | accessDebug ea store => exact inv_raiseDebug (posted ea store)
  | write r v => exact inv_advance hpc (inv_writeGpr r v h)
  | moveFromHiLo r v => exact inv_moveFromHiLo r v hpc h
  | load ea r v => exact inv_loadAndAdvance r v hpc (posted ea false)
  | readCp0 r v => exact inv_loadAndAdvance r v hpc h
  | store ea w bs ha hl =>
    exact inv_advance hpc (inv_putBytes (hl ▸ access_in_space ha) (posted ea true))
  | failStore ea w ha => exact inv_advance hpc (inv_failStore (access_in_space ha) (posted ea true))
  | branch b g hd => exact inv_retire hpc (fun _ => hd) h
  | link r v b g hd => exact inv_retire hpc (fun _ => hd) (inv_writeGpr r v h)
  | hiLo hi lo => exact inv_advance hpc (inv_hiLo hi lo h)
  | nop => exact inv_advance hpc h
  | writeCp0 r v =>
    exact inv_openCp0Window _ _ _
      (inv_advance (by rwa [writeCp0_pc]) (inv_writeCp0 r v h))
  | popStatus => exact inv_restoreStatus hpc h

/-- So does everything that can happen at a boundary: an instruction runs only where its fetch is
aligned. -/
theorem inv_runBoundary (h : s.Inv) (hr : runBoundary s = .next t) : t.Inv := by
  have posted : (s.postDebug s.fetchHitBits).Inv := inv_postDebug (fetchHitBits_defined s) h
  rcases runBoundary_next hr with ⟨p, e, rfl, hp⟩ | rfl | ⟨p, w, hf, hw⟩
  · rcases hp with rfl | rfl | rfl
    · exact inv_raise e h
    · exact inv_raise e (inv_pendingStoreErrors _ h)
    · exact inv_raise e posted
  · exact inv_raiseDebug posted
  · obtain ⟨ha, rfl, -⟩ := fetch_done hf
    rcases hw with ⟨i, -, hi⟩ | hw
    · have hpc : (s.postDebug s.fetchHitBits).pc.extractLsb' 0 2 = 0#2 :=
        aligned_of_no_addressError ha
      exact inv_effect hpc posted (exec_effect hi)
    · rcases undecoded_next hw with ⟨z, rfl⟩ | rfl
      · exact inv_raise _ posted
      · exact inv_raise _ posted

/-- Settles O56: a reset event sets the invariant up again (`inv_resetBy`), and everything that can
happen at a boundary keeps it (`inv_runBoundary`). -/
theorem invariantKept : Obligations.InvariantKept := by
  intro s t h hstep
  rcases step_next hstep with ⟨ev, -, rfl⟩ | ⟨-, u, hu, rfl⟩
  · exact inv_nextEnv (inv_resetBy ev h)
  · exact inv_nextEnv (inv_runBoundary (inv_notePar h) hu)

/-- Settles O55: the reset values are closed data. -/
theorem invariantAtReset : Obligations.InvariantAtReset where
  mem := empty_wf
  stored := by decide
  zero := by decide
  sr := by decide
  dcic := by decide
  cfg := by decide
  guard := by decide
  followers := by decide
  window := by decide
  loadDelay := by decide
  slot := by decide
  aligned := by decide

/-- Settles O54, by evaluation of the reset values. -/
theorem resetState : Obligations.ResetState := by
  unfold Obligations.ResetState
  decide

end Sys2Proof.Machine
end

section
/-! PROOFS. What no step does: change memory at a kernel address in user mode, change SR or a
breakpoint register in user mode but by an entry, change the parameters or the inputs. -/

namespace Sys2Proof.Machine

variable {s t u : State}

/-! ### The two ways a boundary goes on -/

/-- `p` is `s` but for what may be posted before an entry: DCIC, and the bus errors still to
come. -/
def Posted (s p : State) : Prop :=
  ∃ (dcic : Word) (n : Nat), p = { s with dcic := dcic, pendingStoreErrors := n }

theorem posted_refl (s : State) : Posted s s := ⟨s.dcic, s.pendingStoreErrors, rfl⟩

theorem posted_postDebug (s : State) (b : Word) : Posted s (s.postDebug b) := ⟨_, _, rfl⟩

/-- `t` is the state after an exception entry on the instruction at `s`'s pc, through one of the two
vectors (60_exceptions.md R203, R206, R238). -/
def EntersFrom (s t : State) : Prop :=
  ∃ (p : State) (e : Exc) (vector : Word), Posted s p ∧
    (vector = s.generalVector ∨ vector = s.debugVector) ∧ t = p.enter e vector

theorem entersFrom_raise {p : State} (e : Exc) (hp : Posted s p) : EntersFrom s (p.raise e) := by
  refine ⟨p, e, s.generalVector, hp, .inl rfl, ?_⟩
  obtain ⟨d, n, rfl⟩ := hp
  rfl

theorem entersFrom_raiseDebug {p : State} (hp : Posted s p) : EntersFrom s p.raiseDebug := by
  refine ⟨p, .bp, s.debugVector, hp, .inr rfl, ?_⟩
  obtain ⟨d, n, rfl⟩ := hp
  rfl

/-- An entry from a state whose debug conditions are posted is one from the state before. -/
theorem entersFrom_of_postDebug {b : Word} (h : EntersFrom (s.postDebug b) t) :
    EntersFrom s t := by
  obtain ⟨p, e, v, ⟨d, n, rfl⟩, hv, rfl⟩ := h
  exact ⟨_, e, v, ⟨d, n, rfl⟩, hv, rfl⟩

/-- A boundary that goes on enters an exception, or runs the fetched word: an instruction, or one of
the two exceptions of a word outside the table. -/
theorem runBoundary_cases (h : runBoundary s = .next u) :
    EntersFrom s u ∨ (s.addressError s.pc 4 = false ∧ Effect (s.postDebug s.fetchHitBits) u) := by
  rcases runBoundary_next h with ⟨p, e, rfl, hp⟩ | rfl | ⟨p, w, hf, hw⟩
  · refine .inl (entersFrom_raise e ?_)
    rcases hp with rfl | rfl | rfl
    · exact posted_refl p
    · exact ⟨s.dcic, _, rfl⟩
    · exact posted_postDebug s _
  · exact .inl (entersFrom_raiseDebug (posted_postDebug s _))
  · obtain ⟨ha, rfl, -⟩ := fetch_done hf
    refine .inr ⟨ha, ?_⟩
    rcases hw with ⟨i, -, hi⟩ | hw
    · exact exec_effect hi
    · rcases undecoded_next hw with ⟨z, rfl⟩ | rfl
      · exact .entry _
      · exact .entry _

/-! ### A noted parity error changes PE and no other bit of SR (10_state.md R25) -/

theorem notePar_sr_bit (s : State) {i : Nat} (hi : i ≠ 20) :
    s.notePar.sr.getLsbD i = s.sr.getLsbD i := by
  rw [notePar_sr]
  split
  · simp [srPe_bit, hi]
  · rfl

theorem notePar_kuc (s : State) : s.notePar.kuc = s.kuc := notePar_sr_bit s (by decide)

theorem notePar_bev (s : State) : s.notePar.bev = s.bev := notePar_sr_bit s (by decide)

theorem notePar_generalVector (s : State) : s.notePar.generalVector = s.generalVector := by
  rw [State.generalVector, notePar_bev, ← State.generalVector]

theorem notePar_debugVector (s : State) : s.notePar.debugVector = s.debugVector := by
  rw [State.debugVector, notePar_bev, ← State.debugVector]

/-! ### Memory at kernel addresses (20_memory.md R51, 60_exceptions.md R241) -/

/-- An instruction leaves memory as it is, or puts bytes at an address that is no address error. -/
theorem effect_mem (h : Effect s t) : t.mem = s.mem ∨
    ∃ (ea : Word) (w : Width) (bs : List Byte), s.addressError ea w.bytes = false ∧
      bs.length = w.bytes ∧ t.mem = s.mem.writeBytes ea.toNat bs := by
  cases h with
  | store ea w bs ha hl => exact .inr ⟨ea, w, bs, ha, hl, rfl⟩
  | failStore ea w ha => exact .inr ⟨ea, w, _, ha, lostBytes_length _ w, rfl⟩
  | writeCp0 r v => exact .inl (writeCp0_mem s r v)
  | popStatus =>
    rcases restoreStatus_cases s with hr | hr <;> rw [hr]
    · exact .inl rfl
    · exact .inl rfl
  | entry | accessEntry | accessDebug | write | moveFromHiLo | load | readCp0 | branch | link
  | hiLo | nop => exact .inl rfl

/-- In user mode an access that is no address error ends below the kernel addresses. -/
theorem access_in_user_space {ea : Word} {w : Width} (hk : s.kuc = true)
    (h : s.addressError ea w.bytes = false) : ea.toNat + w.bytes ≤ 2 ^ 31 := by
  simp only [State.addressError, hk, Bool.true_and, Bool.or_eq_false_iff,
    bne_eq_false_iff_eq] at h
  obtain ⟨haligned, hmsb⟩ := h
  rw [BitVec.msb_eq_false_iff_two_mul_lt] at hmsb
  cases w <;> simp only [Width.bytes] at haligned ⊢ <;> omega

/-- Nothing at a boundary in user mode reaches a kernel address. -/
theorem runBoundary_kernel_memory (hk : s.kuc = true) (h : runBoundary s = .next u) {a : Nat}
    (ha : 2 ^ 31 ≤ a) : u.mem.recorded a = s.mem.recorded a := by
  rcases runBoundary_cases h with ⟨p, e, v, ⟨d, n, rfl⟩, -, rfl⟩ | ⟨-, he⟩
  · rfl
  · rcases effect_mem he with hm | ⟨ea, w, bs, hae, hl, hm⟩ <;> rw [hm]
    · rfl
    · have hspace := access_in_user_space (s := s.postDebug s.fetchHitBits) hk hae
      exact recorded_writeBytes_outside bs _ _ a (by omega)

/-- Settles O58: only a store writes memory (`effect_mem`), and in user mode an access that passes
the address check ends below 2^31 (`access_in_user_space`). -/
theorem kernelMemoryProtected : Obligations.KernelMemoryProtected := by
  intro s t hk hreset hstep a ha
  rcases step_next hstep with ⟨ev, hev, -⟩ | ⟨-, u, hu, rfl⟩
  · rw [hreset] at hev
    cases hev
  · have hrec : u.mem.recorded a = s.mem.recorded a :=
      runBoundary_kernel_memory ((notePar_kuc s).trans hk) hu ha
    exact ⟨hrec, by simp [Memory.read, hrec]⟩

/-! ### SR and the breakpoint registers (60_exceptions.md R240, R241) -/

/-- The registers that R241 keeps from a user-mode program: the breakpoint registers, and the
exception registers, which only an entry changes. -/
structure SystemKept (s t : State) : Prop where
  bpc : t.bpc = s.bpc
  bpcm : t.bpcm = s.bpcm
  bda : t.bda = s.bda
  bdam : t.bdam = s.bdam
  exceptions : SameExceptionRegs s t

/-- Where CP0 is not usable an instruction keeps those registers, or enters an exception. -/
theorem effect_system (hu : s.usable 0#2 = false) (h : Effect s t) :
    SystemKept s t ∨ EntersFrom s t := by
  cases h with
  | entry e => exact .inr (entersFrom_raise e (posted_refl s))
  | accessEntry ea store e => exact .inr (entersFrom_raise e (posted_postDebug s _))
  | accessDebug ea store => exact .inr (entersFrom_raiseDebug (posted_postDebug s _))
  | writeCp0 r v h | popStatus h => exact absurd h (by simp [hu])
  | failStore ea w ha =>
    exact .inl ⟨by simp, by simp, by simp, by simp, by simp [SameExceptionRegs]⟩
  | write | moveFromHiLo | load | readCp0 | store | branch | link | hiLo | nop =>
    exact .inl ⟨rfl, rfl, rfl, rfl, rfl, rfl, rfl, rfl, rfl⟩

theorem runBoundary_system (hu : s.usable 0#2 = false) (h : runBoundary s = .next u) :
    SystemKept s u ∨ EntersFrom s u := by
  rcases runBoundary_cases h with he | ⟨-, he⟩
  · exact .inr he
  · rcases effect_system (s := s.postDebug s.fetchHitBits) hu he with
      ⟨h1, h2, h3, h4, h5⟩ | he
    · exact .inl ⟨h1, h2, h3, h4, h5⟩
    · exact .inr (entersFrom_of_postDebug he)

/-- CP0 is not usable in user mode with Cu0 clear (41_system_cp0.md R120). -/
theorem usable_zero_eq_false (hk : s.kuc = true) (hcu : s.sr.getLsbD 28 = false) :
    s.usable 0#2 = false := by
  have hcu0 : s.cu 0#2 = false := hcu
  simp [State.usable, hcu0, hk]

/-- An entry leaves the bits of SR above the Status stack alone. -/
theorem pushStatus_high (sr : Word) {i : Nat} (hi : 6 ≤ i) :
    (pushStatus sr).getLsbD i = sr.getLsbD i := by
  rw [pushStatus_bit, if_neg (by omega), if_neg (by omega)]

/-- Settles O59: with CP0 not usable, what runs after the parity error is noted keeps SR and the
breakpoint registers or is an entry (`runBoundary_system`); the parity error changes PE only. -/
theorem userModeConfined : Obligations.UserModeConfined := by
  intro s t hk hcu hreset hstep
  rcases step_next hstep with ⟨ev, hev, -⟩ | ⟨-, u, hu, rfl⟩
  · rw [hreset] at hev
    cases hev
  have hbit {i : Nat} (hi : i ≠ 20) := notePar_sr_bit s hi
  have husable : s.notePar.usable 0#2 = false :=
    usable_zero_eq_false ((notePar_kuc s).trans hk) ((hbit (by decide)).trans hcu)
  rcases runBoundary_system husable hu with
    ⟨hbpc, hbpcm, hbda, hbdam, hsr, hexc⟩ | ⟨p, e, v, ⟨d, n, rfl⟩, hv, rfl⟩
  · have hstack : u.sr.extractLsb' 0 6 = s.sr.extractLsb' 0 6 :=
      hsr ▸ extract_eq_of_bits fun i hi => hbit (by omega)
    exact ⟨hbpc, hbpcm, hbda, hbdam, fun i _ hi => hsr ▸ hbit hi, .inl ⟨hstack, hexc⟩⟩
  · rw [notePar_generalVector, notePar_debugVector] at hv
    have hstack : (pushStatus s.notePar.sr).extractLsb' 0 6 = s.sr.extractLsb' 0 4 ++ 0#2 := by
      rw [pushStatus_stack]
      exact congrArg (· ++ 0#2) (extract_eq_of_bits fun i hi => hbit (by omega))
    exact ⟨rfl, rfl, rfl, rfl, fun i h6 hi => (pushStatus_high _ h6).trans (hbit hi),
      .inr ⟨pushStatus_bit _ 1, pushStatus_bit _ 0, rfl, hv, hstack⟩⟩

/-! ### The parameters and the inputs (00_scope.md R5, R7) -/

/-- The parameters, the inputs of this step and those to come are the same. -/
def SameInputs (s t : State) : Prop := t.cfg = s.cfg ∧ t.env = s.env ∧ t.schedule = s.schedule

theorem effect_inputs (h : Effect s t) : SameInputs s t := by
  cases h with
  | writeCp0 r v => exact ⟨writeCp0_cfg s r v, writeCp0_env s r v, writeCp0_schedule s r v⟩
  | popStatus =>
    rcases restoreStatus_cases s with hr | hr <;> rw [hr]
    · exact ⟨rfl, rfl, rfl⟩
    · exact ⟨rfl, rfl, rfl⟩
  | failStore ea w ha => exact ⟨by simp, by simp, by simp⟩
  | entry | accessEntry | accessDebug | write | moveFromHiLo | load | readCp0 | store | branch
  | link | hiLo | nop => exact ⟨rfl, rfl, rfl⟩

theorem runBoundary_inputs (h : runBoundary s = .next u) : SameInputs s u := by
  rcases runBoundary_cases h with ⟨p, e, v, ⟨d, n, rfl⟩, -, rfl⟩ | ⟨-, he⟩
  · exact ⟨rfl, rfl, rfl⟩
  · exact effect_inputs (s := s.postDebug s.fetchHitBits) he

/-- Settles O57: only the end of a step moves the environment, and nothing before it changes the
inputs but the parity error, which is used up (`runBoundary_inputs`). -/
theorem outsideUnchanged : Obligations.OutsideUnchanged := by
  intro s t hstep
  rcases step_next hstep with ⟨ev, -, rfl⟩ | ⟨-, u, hu, rfl⟩
  · rw [nextEnv_cfg, nextEnv_schedule, nextEnv_env, resetBy_cfg, resetBy_schedule, resetBy_env]
    exact ⟨rfl, rfl, rfl⟩
  · obtain ⟨hcfg, henv, hschedule⟩ := runBoundary_inputs hu
    rw [nextEnv_cfg, nextEnv_schedule, nextEnv_env, hcfg, hschedule, henv]
    exact ⟨rfl, rfl, rfl⟩

end Sys2Proof.Machine
end

section
/-! PROOFS. Load scheduling (40_loads_stores.md R103): every operation, and so every step, commutes
with setting the LDSCH parameter. -/

namespace Sys2Proof.Machine

/-- The state with the LDSCH parameter set to `b`. -/
def State.setLdsch (b : Bool) (s : State) : State := { s with cfg := { s.cfg with ldsch := b } }

/-- The outcome with the state changed by `f`, if there is one. -/
def mapNext (f : State → State) (r : Result) : Result :=
  match r with
  | .next t => .next (f t)
  | .fault x => .fault x
  | .refused x => .refused x

/-- The access with the state changed by `f`. -/
def Access.mapNext {α : Type} (f : State → State) (x : Access α) : Access α :=
  match x with
  | .done s v => .done (f s) v
  | .stop r => .stop (Machine.mapNext f r)

theorem mapNext_ite {f : State → State} (c : Prop) [Decidable c] (x y : Result) :
    mapNext f (if c then x else y) = if c then mapNext f x else mapNext f y :=
  apply_ite _ c x y

theorem Access.mapNext_ite {α : Type} {f : State → State} (c : Prop) [Decidable c]
    (x y : Access α) : (if c then x else y).mapNext f = if c then x.mapNext f else y.mapNext f :=
  apply_ite _ c x y

variable (b : Bool) (s : State)

/-! ### Shared operations -/

theorem branch_setLdsch (taken : Bool) (target : Word) :
    (s.setLdsch b).branch taken target = mapNext (·.setLdsch b) (s.branch taken target) := by
  cases hd : s.delay with
  | none => rw [branch_of_none _ _ hd, branch_of_none _ _ (s := s.setLdsch b) hd]; rfl
  | slot => rw [branch_of_slot _ _ hd, branch_of_slot _ _ (s := s.setLdsch b) hd]; rfl

theorem copBranch_setLdsch (z : BitVec 2) (sense : Bool) (imm : Half) :
    (s.setLdsch b).copBranch z sense imm = mapNext (·.setLdsch b) (s.copBranch z sense imm) := by
  unfold State.copBranch
  rw [mapNext_ite, ← branch_setLdsch]
  rfl

theorem writeHiLo_setLdsch (hi lo : Word) :
    (s.setLdsch b).writeHiLo hi lo = mapNext (·.setLdsch b) (s.writeHiLo hi lo) := by
  unfold State.writeHiLo
  rw [mapNext_ite]
  rfl

theorem checkAccess_setLdsch (ea : Word) (w : Width) (store : Bool) :
    (s.setLdsch b).checkAccess ea w store = (s.checkAccess ea w store).mapNext (·.setLdsch b) := by
  unfold State.checkAccess
  simp only [Access.mapNext_ite]
  rfl

theorem loadData_setLdsch (ea : Word) (w : Width) (ext : Half → Word) :
    (s.setLdsch b).loadData ea w ext = (s.loadData ea w ext).mapNext (·.setLdsch b) := by
  unfold State.loadData
  rw [checkAccess_setLdsch]
  cases s.checkAccess ea w false with
  | stop r => rfl
  | done t u =>
    simp only [Access.mapNext_ite]
    cases w <;> rfl

theorem storeData_setLdsch (ea : Word) (w : Width) (v : Word) :
    (s.setLdsch b).storeData ea w v = (s.storeData ea w v).mapNext (·.setLdsch b) := by
  unfold State.storeData
  rw [checkAccess_setLdsch]
  cases s.checkAccess ea w true with
  | stop r => rfl
  | done t u =>
    simp only [Access.mapNext_ite]
    cases w <;> rfl

theorem load_setLdsch (rt rs : Reg) (imm : Half) (w : Width) (ext : Half → Word) :
    (s.setLdsch b).load rt rs imm w ext = mapNext (·.setLdsch b) (s.load rt rs imm w ext) := by
  unfold State.load
  rw [show (s.setLdsch b).effectiveAddress rs imm = s.effectiveAddress rs imm from rfl,
    loadData_setLdsch]
  cases s.loadData (s.effectiveAddress rs imm) w ext <;> rfl

theorem store_setLdsch (rt rs : Reg) (imm : Half) (w : Width) :
    (s.setLdsch b).store rt rs imm w = mapNext (·.setLdsch b) (s.store rt rs imm w) := by
  unfold State.store
  rw [show (s.setLdsch b).effectiveAddress rs imm = s.effectiveAddress rs imm from rfl,
    show (s.setLdsch b).rtVal rt = s.rtVal rt from rfl, storeData_setLdsch]
  cases s.storeData (s.effectiveAddress rs imm) w (s.rtVal rt) <;> rfl

theorem trapping_setLdsch (c : Bool) (r : Reg) (v : Word) :
    (if c then .next ((s.setLdsch b).raise .ovf)
      else .next ((s.setLdsch b).writeAndAdvance r v) : Result) =
      mapNext (·.setLdsch b)
        (if c then .next (s.raise .ovf) else .next (s.writeAndAdvance r v)) := by
  rw [mapNext_ite]
  rfl

theorem writeCp0_setLdsch (r : Cp0Reg) (v : Word) :
    (s.setLdsch b).writeCp0 r v = (s.writeCp0 r v).setLdsch b := by
  cases r <;> rfl

theorem readCp0_setLdsch (r : Cp0Reg) : (s.setLdsch b).readCp0 r = s.readCp0 r := by
  cases r <;> rfl

theorem moveToCp0_setLdsch (r : Cp0Reg) (v : Word) :
    (s.setLdsch b).moveToCp0 r v = (s.moveToCp0 r v).setLdsch b := by
  unfold State.moveToCp0
  rw [writeCp0_setLdsch, readCp0_setLdsch, readCp0_setLdsch]
  rfl

theorem restoreStatus_setLdsch :
    (s.setLdsch b).restoreStatus = s.restoreStatus.setLdsch b := by
  unfold State.restoreStatus
  rw [apply_ite (State.setLdsch b) (s.delay.taken = true)]
  rfl

/-! ### Instructions -/

theorem exec_setLdsch (i : Instr) :
    exec i (s.setLdsch b) = mapNext (·.setLdsch b) (exec i s) := by
  cases i with
  | sll | srl | sllv | addu | subu | and | or | addiu | andi | ori | lui => rfl
  | mfhi | mflo | syscall | brk => rfl
  | add | sub | addi => exact trapping_setLdsch b s _ _ _
  | mthi | mtlo | mult | multu => exact writeHiLo_setLdsch b s _ _
  | div =>
    simp only [exec, execDiv, mapNext_ite, ← writeHiLo_setLdsch]
    rfl
  | divu =>
    simp only [exec, execDivu, mapNext_ite, ← writeHiLo_setLdsch]
    rfl
  | lh | lw | lhu => exact load_setLdsch b s _ _ _ _ _
  | sh | sw => exact store_setLdsch b s _ _ _ _
  | jr | bgez | j | beq | bne => exact branch_setLdsch b s _ _
  | jal => exact branch_setLdsch b (s.writeGpr 31#5 s.linkValue) _ _
  | jalr rd =>
    simp only [exec, execJalr, mapNext_ite, ← branch_setLdsch]
    rfl
  | bc0f | bc0t | bc1f | bc1t | bc2f | bc2t | bc3f | bc3t => exact copBranch_setLdsch b s _ _ _
  | mfc0 rt rd =>
    simp only [exec, execMfc0, mapNext_ite, readCp0_setLdsch]
    cases cp0Number rd <;> rfl
  | mtc0 rt rd =>
    simp only [exec, execMtc0, mapNext_ite, moveToCp0_setLdsch]
    cases cp0Number rd <;> rfl
  | rfe =>
    simp only [exec, execRfe, mapNext_ite, restoreStatus_setLdsch]
    rfl

/-! ### Dependence on open windows (70_reset_and_hazards.md R273) -/

theorem toggleCp0_setLdsch (r : Cp0Reg) (bits : Word) :
    (s.setLdsch b).toggleCp0 r bits = (s.toggleCp0 r bits).setLdsch b := by
  cases r <;> rfl

theorem olderViews_setLdsch (l : List Cp0Change) :
    (s.setLdsch b).olderViews l = (s.olderViews l).map (·.setLdsch b) := by
  induction l generalizing s with
  | nil => rfl
  | cons c l ih => simp only [State.olderViews, toggleCp0_setLdsch, ih, List.map_cons]

/-- What does not read LDSCH depends on the same windows. -/
theorem unsettled_setLdsch {α : Type} [DecidableEq α] {f : State → α}
    (hf : ∀ u : State, f (u.setLdsch b) = f u) :
    (s.setLdsch b).unsettled f = s.unsettled f := by
  unfold State.unsettled
  rw [show (s.setLdsch b).cp0Window = s.cp0Window from rfl, olderViews_setLdsch, List.any_map]
  simp only [Function.comp_def, hf]

theorem readOutlook_setLdsch (n : Reg) : (s.setLdsch b).readOutlook n = s.readOutlook n := by
  unfold State.readOutlook
  simp only [readCp0_setLdsch]
  rfl

theorem writeOutlook_setLdsch (n : Reg) (x : Word) :
    (s.setLdsch b).writeOutlook n x = s.writeOutlook n x := by
  unfold State.writeOutlook
  simp only [writeCp0_setLdsch, readCp0_setLdsch]
  rfl

theorem instrUnsettled_setLdsch (i : Instr) :
    (s.setLdsch b).instrUnsettled i = s.instrUnsettled i := by
  cases i with
  | lw | lh | lhu | sw | sh => exact unsettled_setLdsch b s fun u => rfl
  | mfc0 rt rd => exact unsettled_setLdsch b s fun u => readOutlook_setLdsch b u rd
  | mtc0 rt rd => exact unsettled_setLdsch b s fun u => writeOutlook_setLdsch b u rd _
  | rfe =>
    exact congrArg (· || s.stackUnsettled 0x3C#32) (unsettled_setLdsch b s fun u => rfl)
  | bc0f | bc0t | bc1f | bc1t | bc2f | bc2t | bc3f | bc3t =>
    exact unsettled_setLdsch b s fun u => rfl
  | sll | srl | sllv | add | addu | sub | subu | and | or | addi | addiu | andi | ori | lui
  | mfhi | mthi | mflo | mtlo | mult | multu | div | divu | jr | jalr | bgez | j | jal | beq
  | bne | syscall | brk => rfl

theorem wordUnsettled_setLdsch (w : Word) :
    (s.setLdsch b).wordUnsettled w = s.wordUnsettled w := by
  unfold State.wordUnsettled
  cases decode w with
  | ok i => exact instrUnsettled_setLdsch b s i
  | error e =>
    cases coprocessorOf w with
    | some z => exact unsettled_setLdsch b s fun u => rfl
    | none => rfl

theorem checkEntry_setLdsch (r : Result) :
    (s.setLdsch b).checkEntry (mapNext (·.setLdsch b) r) =
      mapNext (·.setLdsch b) (s.checkEntry r) := by
  have hentry : (s.setLdsch b).entryUnsettled = s.entryUnsettled :=
    congrArg (· || s.stackUnsettled 0x0F#32) (unsettled_setLdsch b s fun u => rfl)
  cases r with
  | next t =>
    simp only [mapNext, State.checkEntry, hentry]
    rw [show (t.setLdsch b).arrival = t.arrival from rfl]
    split <;> rfl
  | fault f => rfl
  | refused x => rfl

/-! ### The fetch and the step -/

theorem fetch_setLdsch : (s.setLdsch b).fetch = s.fetch.mapNext (·.setLdsch b) := by
  unfold State.fetch
  simp only [Access.mapNext_ite]
  rfl

theorem checkedFetch_setLdsch :
    (s.setLdsch b).checkedFetch = s.checkedFetch.mapNext (·.setLdsch b) := by
  unfold State.checkedFetch
  rw [unsettled_setLdsch b s fun u => rfl, fetch_setLdsch, Access.mapNext_ite]
  cases s.fetch with
  | stop r =>
    simp only [Access.mapNext, checkEntry_setLdsch]
    rfl
  | done t w => rfl

theorem fetchPhase_setLdsch :
    (s.setLdsch b).fetchPhase = s.fetchPhase.mapNext (·.setLdsch b) := by
  unfold State.fetchPhase
  rw [checkedFetch_setLdsch]
  simp only [Access.mapNext_ite]
  rfl

theorem undecoded_setLdsch (w : Word) :
    (s.setLdsch b).undecoded w = mapNext (·.setLdsch b) (s.undecoded w) := by
  unfold State.undecoded
  cases coprocessorOf w with
  | some z => simp only [mapNext_ite]; rfl
  | none => simp only [mapNext_ite]; rfl

theorem meaning_setLdsch (w : Word) :
    meaning (s.setLdsch b) w = mapNext (·.setLdsch b) (meaning s w) := by
  unfold meaning
  cases decode w with
  | ok i => exact exec_setLdsch b s i
  | error e => exact undecoded_setLdsch b s w

theorem runWord_setLdsch (w : Word) :
    runWord (s.setLdsch b) w = mapNext (·.setLdsch b) (runWord s w) := by
  unfold runWord
  rw [wordUnsettled_setLdsch, meaning_setLdsch, checkEntry_setLdsch, mapNext_ite]
  rfl

theorem runBoundary_setLdsch :
    runBoundary (s.setLdsch b) = mapNext (·.setLdsch b) (runBoundary s) := by
  unfold runBoundary
  rw [fetchPhase_setLdsch]
  cases s.fetchPhase with
  | stop r => rfl
  | done t w => exact runWord_setLdsch b t w

theorem step_setLdsch : step (s.setLdsch b) = mapNext (·.setLdsch b) (step s) := by
  unfold step
  rw [show (s.setLdsch b).env = s.env from rfl]
  cases s.env.reset with
  | some ev => rfl
  | none =>
    dsimp only
    rw [show (s.setLdsch b).notePar = s.notePar.setLdsch b from rfl, runBoundary_setLdsch]
    cases runBoundary s.notePar <;> rfl

/-- Settles O60: every operation of the step commutes with setting LDSCH (`step_setLdsch`). -/
theorem loadSchedulingInvisible : Obligations.LoadSchedulingInvisible := by
  intro s b
  refine (step_setLdsch b s).trans ?_
  cases step s <;> rfl

end Sys2Proof.Machine
end

section
/-! PROOFS. The statements on the register file and on memory (10_state.md, 20_memory.md): what
reads back after a write, and which byte lies where. -/

namespace Sys2Proof.Machine

/-- Settles O6: `gpr_writeGpr`, with the write to x[0] and the read of it apart. -/
theorem registerFile : Obligations.RegisterFile := by
  intro s r q v
  rw [gpr_writeGpr]
  by_cases hq : q = 0#5
  · have hboth : ¬ (q = r ∧ r ≠ 0#5) := fun ⟨hqr, hr⟩ => hr (hqr ▸ hq)
    rw [if_neg hboth, if_pos hq, hq, gpr_zero]
  · rw [if_neg hq]
    by_cases hqr : q = r
    · rw [if_pos ⟨hqr, hqr ▸ hq⟩, if_pos hqr]
    · rw [if_neg (fun h => hqr h.1), if_neg hqr]

/-! ### Byte order (20_memory.md R54) -/

/-- Settles O7: joining bytes is a sum of multiples of powers of 2^8 (`toNat_append_eq`). -/
theorem byteOrder : Obligations.ByteOrder := by
  intro m a
  refine ⟨?wordBig, ?wordLittle, ?halfBig, ?halfLittle⟩
  case wordBig | wordLittle =>
    simp only [Memory.readWord, joinWord, if_true, Bool.false_eq_true, if_false, toNat_append_eq]
    omega
  case halfBig | halfLittle =>
    simp only [Memory.readHalf, joinHalf, if_true, Bool.false_eq_true, if_false, toNat_append_eq]

/-! ### Reading back (20_memory.md R55, R56, R63) -/

/-- The two bytes of a halfword, joined, are the halfword. -/
theorem append_halfBytes (h : Half) : h.extractLsb' 8 8 ++ h.extractLsb' 0 8 = h := by
  apply BitVec.eq_of_toNat_eq
  simp only [toNat_append_eq, BitVec.extractLsb'_toNat, Nat.shiftRight_eq_div_pow, Nat.reducePow]
  omega

@[simp] theorem wordBytes_length (be : Bool) (v : Word) : (wordBytes be v).length = 4 := by
  cases be <;> rfl

@[simp] theorem halfBytes_length (be : Bool) (v : Half) : (halfBytes be v).length = 2 := by
  cases be <;> rfl

theorem readWord_writeBytes (m : Memory) (be : Bool) (a : Nat) (v : Word) :
    (m.writeBytes a (wordBytes be v)).readWord be a = v := by
  have byte (i : Nat) (hi : i < 4) : (m.writeBytes a (wordBytes be v)).read (a + i) =
      (wordBytes be v)[i]'(by simpa using hi) := read_writeBytes_inside _ _ _ _ _
  have first := byte 0 (by decide)
  rw [Nat.add_zero] at first
  rw [Memory.readWord, first, byte 1 (by decide), byte 2 (by decide), byte 3 (by decide)]
  cases be <;> simp [joinWord, wordBytes, append_bytes]

theorem readHalf_writeBytes (m : Memory) (be : Bool) (a : Nat) (v : Half) :
    (m.writeBytes a (halfBytes be v)).readHalf be a = v := by
  have byte (i : Nat) (hi : i < 2) : (m.writeBytes a (halfBytes be v)).read (a + i) =
      (halfBytes be v)[i]'(by simpa using hi) := read_writeBytes_inside _ _ _ _ _
  have first := byte 0 (by decide)
  rw [Nat.add_zero] at first
  rw [Memory.readHalf, first, byte 1 (by decide)]
  cases be <;> simp [joinHalf, halfBytes, append_halfBytes]

/-- Settles O8, from `readWord_writeBytes`, `readHalf_writeBytes` and the frame of a write. -/
theorem memoryReadsBack : Obligations.MemoryReadsBack := by
  intro m be a
  refine ⟨fun v => ⟨readWord_writeBytes m be a v, fun x hx => ?_⟩,
    fun v => ⟨readHalf_writeBytes m be a v, fun x hx => ?_⟩⟩
  · exact read_writeBytes_outside _ m a x (by rwa [wordBytes_length])
  · exact read_writeBytes_outside _ m a x (by rwa [halfBytes_length])

end Sys2Proof.Machine
end

section
/-! PROOFS. The frames of the shared operations, and the statements of 42_arithmetic.md and
43_muldiv.md on what instructions compute. -/

namespace Sys2Proof.Machine

variable {s t : State}

/-! ### Frames (the terms of Sys2Proof/Safety.lean) -/

theorem sameBut_self (l : List Reg) (s : State) : SameBut l s s :=
  ⟨fun _ _ => rfl, ⟨rfl, rfl⟩, ⟨rfl, rfl, rfl, rfl, rfl⟩, ⟨rfl, rfl, rfl, rfl, rfl⟩,
    ⟨fun _ => rfl, rfl, rfl⟩, ⟨rfl, rfl, rfl, rfl⟩⟩

/-- A register write changes that register only. -/
theorem sameBut_writeGpr (s : State) (r : Reg) (v : Word) : SameBut [r] s (s.writeGpr r v) := by
  refine ⟨fun q hq => ?_, ⟨rfl, rfl⟩, ⟨rfl, rfl, rfl, rfl, rfl⟩, ⟨rfl, rfl, rfl, rfl, rfl⟩,
    ⟨fun _ => rfl, rfl, rfl⟩, ⟨rfl, rfl, rfl, rfl⟩⟩
  rw [gpr_writeGpr, if_neg fun h => hq (List.mem_singleton.mpr h.1)]

/-- Going on changes only the pc and the history, which no frame speaks of. -/
theorem sameBut_retire {l : List Reg} (d : Delay) (h : SameBut l s t) :
    SameBut l s (t.retire d) := h

theorem sameBut_writeAndAdvance (s : State) (r : Reg) (v : Word) :
    SameBut [r] s (s.writeAndAdvance r v) := sameBut_retire .none (sameBut_writeGpr s r v)

theorem sameButHiLo_advance (s : State) (hi lo : Word) :
    SameButHiLo s { s with hi := hi, lo := lo }.advance :=
  ⟨fun _ _ => rfl, ⟨rfl, rfl, rfl, rfl, rfl⟩, ⟨rfl, rfl, rfl, rfl, rfl⟩,
    ⟨fun _ => rfl, rfl, rfl⟩, ⟨rfl, rfl, rfl, rfl⟩⟩

/-- What the register that was written reads. -/
theorem written_writeGpr (s : State) (r : Reg) (v : Word) : Written s (s.writeGpr r v) r v := by
  rw [Written, gpr_writeGpr]
  by_cases hr : r = 0#5 <;> simp [hr]

/-- The normal advance is one of pc, delay-slot record and arrival (10_state.md R13). -/
theorem goesOn_of_advance (hpc : t.pc = s.nextPc) (hdelay : t.delay = .none)
    (harrival : t.arrival = if s.delay.taken then .target else .sequential) : GoesOn s t := by
  refine ⟨hpc, hdelay, fun g hg => ?_, fun hne => ?_⟩
  · rw [harrival, hg]
    rfl
  · rw [harrival]
    cases hd : s.delay with
    | none => rfl
    | slot taken g =>
      cases taken with
      | false => rfl
      | true => exact absurd hd (hne g)

theorem goesOn_advance (s : State) : GoesOn s s.advance := goesOn_of_advance rfl rfl rfl

theorem goesOn_writeAndAdvance (s : State) (r : Reg) (v : Word) :
    GoesOn s (s.writeAndAdvance r v) := goesOn_of_advance rfl rfl rfl

/-- An instruction that writes a register and goes on. -/
theorem results_of_write {i : Instr} {r : Reg} {v v' : Word}
    (h : exec i s = .next (s.writeAndAdvance r v)) (hv : v = v') : Results i s r v' := by
  subst hv
  exact ⟨_, h, written_writeGpr s r v, sameBut_writeAndAdvance s r v,
    goesOn_writeAndAdvance s r v, rfl⟩

/-! ### Arithmetic, logic, shifts (42_arithmetic.md) -/

theorem word_add_eq_ofNat (a b : Word) : a + b = BitVec.ofNat 32 (a.toNat + b.toNat) := by
  apply BitVec.eq_of_toNat_eq
  rw [BitVec.toNat_add, BitVec.toNat_ofNat]

theorem word_sub_eq_ofInt (a b : Word) : a - b = BitVec.ofInt 32 (a.toNat - b.toNat) := by
  apply BitVec.eq_of_toNat_eq
  rw [BitVec.toNat_sub, BitVec.toNat_ofInt]
  omega

/-- Adding a sign-extended immediate (30_encoding.md R84). -/
theorem word_add_signImm (a : Word) (imm : Half) :
    a + signImm imm = BitVec.ofInt 32 (a.toNat + imm.toInt) := by
  rw [BitVec.ofInt_add, BitVec.ofInt_natCast, BitVec.ofNat_toNat, BitVec.setWidth_eq,
    ← signImm_toInt, BitVec.ofInt_toInt]

theorem zeroImm_eq_ofNat (imm : Half) : zeroImm imm = BitVec.ofNat 32 imm.toNat :=
  (BitVec.ofNat_toNat 32 imm).symm

theorem upperImm_eq_ofNat (imm : Half) : upperImm imm = BitVec.ofNat 32 (imm.toNat * 2 ^ 16) := by
  have hlt := imm.isLt
  apply BitVec.eq_of_toNat_eq
  rw [upperImm, toNat_append_eq, BitVec.toNat_ofNat, BitVec.toNat_ofNat]
  omega

theorem word_shiftLeft_eq_ofNat (a : Word) (n : Nat) :
    a <<< n = BitVec.ofNat 32 (a.toNat * 2 ^ n) := by
  apply BitVec.eq_of_toNat_eq
  rw [BitVec.toNat_shiftLeft, Nat.shiftLeft_eq, BitVec.toNat_ofNat]

theorem word_shiftRight_eq_ofNat (a : Word) (n : Nat) :
    a >>> n = BitVec.ofNat 32 (a.toNat / 2 ^ n) := by
  apply BitVec.eq_of_toNat_eq
  rw [BitVec.toNat_ushiftRight, Nat.shiftRight_eq_div_pow, BitVec.toNat_ofNat,
    Nat.mod_eq_of_lt ((Nat.div_le_self _ _).trans_lt a.isLt)]

/-- Settles O9: each form writes its result and goes on, as numbers by `word_add_eq_ofNat` and
`word_sub_eq_ofInt`. -/
theorem registerForms : Obligations.RegisterForms := fun _ _ _ _ =>
  ⟨results_of_write rfl (word_add_eq_ofNat _ _), results_of_write rfl (word_sub_eq_ofInt _ _),
    results_of_write rfl rfl, results_of_write rfl rfl⟩

/-- Settles O10: as O9, with the extensions of the immediate as numbers. -/
theorem immediateForms : Obligations.ImmediateForms := fun _ _ _ imm =>
  ⟨results_of_write rfl (word_add_signImm _ imm),
    results_of_write rfl (congrArg _ (zeroImm_eq_ofNat imm)),
    results_of_write rfl (congrArg _ (zeroImm_eq_ofNat imm)),
    results_of_write rfl (upperImm_eq_ofNat imm)⟩

/-- The low five bits of the amount are the amount modulo 32. -/
theorem sllv_amount (a : Word) : (a.extractLsb' 0 5).toNat = a.toNat % 32 := by
  rw [extract_toNat]
  omega

/-- Settles O11: a shift multiplies or divides by a power of two. -/
theorem shifts : Obligations.Shifts := fun _ _ _ _ _ =>
  ⟨results_of_write rfl (word_shiftLeft_eq_ofNat _ _),
    results_of_write rfl (word_shiftRight_eq_ofNat _ _),
    results_of_write rfl (sllv_amount _ ▸ word_shiftLeft_eq_ofNat _ _)⟩

/-- An instruction that traps on a condition writes its result where the condition fails. -/
theorem results_of_trapping {i : Instr} {c : Bool} {r : Reg} {v v' : Word}
    (h : exec i s = if c then .next (s.raise .ovf) else .next (s.writeAndAdvance r v))
    (hc : c = false) (hv : v = v') : Results i s r v' :=
  results_of_write (by rw [h, hc]; rfl) hv

theorem addOverflows_of_fits {a b : Word} (h : FitsWord (a.toInt + b.toInt)) :
    addOverflows a b = false := by
  rw [← Bool.not_eq_true, addOverflows_iff]
  exact not_not.mpr h

theorem subOverflows_of_fits {a b : Word} (h : FitsWord (a.toInt - b.toInt)) :
    subOverflows a b = false := by
  rw [← Bool.not_eq_true, subOverflows_iff]
  exact not_not.mpr h

theorem word_add_eq_ofInt (a b : Word) : a + b = BitVec.ofInt 32 (a.toInt + b.toInt) := by
  rw [← BitVec.toInt_inj, BitVec.toInt_add, BitVec.toInt_ofInt]

theorem word_sub_eq_ofInt_toInt (a b : Word) : a - b = BitVec.ofInt 32 (a.toInt - b.toInt) := by
  rw [← BitVec.toInt_inj, BitVec.toInt_sub, BitVec.toInt_ofInt]

/-- Settles O12: where the exact result fits, the test of overflow fails (`addOverflows_iff`,
`subOverflows_iff`). -/
theorem trappingFormsComplete : Obligations.TrappingFormsComplete := by
  intro s rd rs rt imm
  refine ⟨fun h => ?add, fun h => ?sub, fun h => ?addi⟩
  case add => exact results_of_trapping rfl (addOverflows_of_fits h) (word_add_eq_ofInt _ _)
  case sub => exact results_of_trapping rfl (subOverflows_of_fits h) (word_sub_eq_ofInt_toInt _ _)
  case addi =>
    rw [← signImm_toInt] at h ⊢
    exact results_of_trapping rfl (addOverflows_of_fits h) (word_add_eq_ofInt _ _)

/-! ### Multiply and divide (43_muldiv.md) -/

/-- Outside the distance of R168 a writer of HI and LO writes both halves and goes on. -/
theorem writeHiLo_of_writable (h : HiLoWritable s) (hi lo : Word) :
    s.writeHiLo hi lo = .next { s with hi := hi, lo := lo }.advance := by
  unfold State.writeHiLo
  rw [if_pos (mayWriteHiLo_iff.mpr h)]

/-- What such an instruction leaves, for any property of the two halves. -/
theorem hiLo_written {i : Instr} {hi lo : Word} {P : Word → Word → Prop} (h : HiLoWritable s)
    (hexec : exec i s = s.writeHiLo hi lo) (hP : P hi lo) :
    ∃ t, exec i s = .next t ∧ P t.hi t.lo ∧ SameButHiLo s t ∧ GoesOn s t :=
  ⟨_, hexec.trans (writeHiLo_of_writable h hi lo), hP, sameButHiLo_advance s hi lo,
    goesOn_of_advance rfl rfl rfl⟩

/-- The halves of a product, joined, are the product. -/
theorem highWord_append_lowWord (p : BitVec 64) : highWord p ++ lowWord p = p := by
  apply BitVec.eq_of_toNat_eq
  simp only [highWord, lowWord, toNat_append_eq, BitVec.extractLsb'_toNat,
    Nat.shiftRight_eq_div_pow, Nat.reducePow]
  omega

/-- The exact signed product fits 64 bits. -/
theorem signedProduct_toInt (a b : Word) : (signedProduct a b).toInt = a.toInt * b.toInt := by
  have ha : |a.toInt| ≤ 2 ^ 31 := abs_le.mpr ⟨a.le_toInt, a.toInt_lt.le⟩
  have hb : |b.toInt| ≤ 2 ^ 31 := abs_le.mpr ⟨b.le_toInt, b.toInt_lt.le⟩
  have hab : |a.toInt * b.toInt| ≤ 2 ^ 31 * 2 ^ 31 := by
    rw [abs_mul]
    exact mul_le_mul ha hb (abs_nonneg _) (by decide)
  obtain ⟨hlo, hhi⟩ := abs_le.mp hab
  exact BitVec.toInt_ofInt_eq_self (by decide) (by norm_num at *; omega) (by norm_num at *; omega)

/-- The exact unsigned product fits 64 bits. -/
theorem unsignedProduct_toNat (a b : Word) :
    (unsignedProduct a b).toNat = a.toNat * b.toNat := by
  have hab : a.toNat * b.toNat < 2 ^ 32 * 2 ^ 32 := Nat.mul_lt_mul'' a.isLt b.isLt
  rw [unsignedProduct, BitVec.toNat_ofNat, Nat.mod_eq_of_lt (by omega)]

/-- Settles O14: HI and LO are the halves of the exact product, which fits 64 bits. -/
theorem multiply : Obligations.Multiply := by
  intro s rs rt h
  refine ⟨hiLo_written (P := fun hi lo => (hi ++ lo).toInt = _) h rfl ?_,
    hiLo_written (P := fun hi lo => (hi ++ lo).toNat = _) h rfl ?_⟩
  · rw [highWord_append_lowWord, signedProduct_toInt]
  · rw [highWord_append_lowWord, unsignedProduct_toNat]

/-- The signed divisions whose result is undefined, as numbers. -/
theorem signedDivisionOpen_iff {n d : Word} : signedDivisionOpen n d = true ↔
    d = 0#32 ∨ (n.toInt = -2 ^ 31 ∧ d.toInt = -1) := by
  have hn : n.toInt = -2 ^ 31 ↔ n = 0x80000000#32 := by
    rw [← BitVec.toInt_inj]
    rfl
  have hd : d.toInt = -1 ↔ d = 0xFFFFFFFF#32 := by
    rw [← BitVec.toInt_inj]
    rfl
  rw [hn, hd, signedDivisionOpen, Bool.or_eq_true, Bool.and_eq_true, beq_iff_eq, beq_iff_eq,
    beq_iff_eq]

theorem exec_div_of_open {rs rt : Reg}
    (h : signedDivisionOpen (s.rsVal rs) (s.rtVal rt) = true) : exec (.div rs rt) s =
      s.writeHiLo (Config.undef 32 .hi s.steps) (Config.undef 32 .lo s.steps) := by
  simp only [exec, execDiv, h, if_true]

theorem exec_div_of_defined {rs rt : Reg}
    (h : signedDivisionOpen (s.rsVal rs) (s.rtVal rt) = false) : exec (.div rs rt) s =
      s.writeHiLo (signedRemainder (s.rsVal rs) (s.rtVal rt))
        (signedQuotient (s.rsVal rs) (s.rtVal rt)) := by
  simp only [exec, execDiv, h, Bool.false_eq_true, if_false]

theorem exec_divu_of_zero {rs rt : Reg} (h : s.rtVal rt = 0#32) : exec (.divu rs rt) s =
    s.writeHiLo (Config.undef 32 .hi s.steps) (Config.undef 32 .lo s.steps) := by
  simp only [exec, execDivu, h, if_true]

theorem exec_divu_of_ne_zero {rs rt : Reg} (h : s.rtVal rt ≠ 0#32) : exec (.divu rs rt) s =
    s.writeHiLo (unsignedRemainder (s.rsVal rs) (s.rtVal rt))
      (unsignedQuotient (s.rsVal rs) (s.rtVal rt)) := by
  simp only [exec, execDivu, h, if_false]

/-- The model's quotient is the library's signed division. -/
theorem signedQuotient_eq_sdiv (n d : Word) : signedQuotient n d = n.sdiv d := by
  rw [← BitVec.toInt_inj, signedQuotient, BitVec.toInt_ofInt, BitVec.toInt_sdiv]

/-- The model's remainder is the library's, with the sign of the dividend. -/
theorem signedRemainder_eq_srem (n d : Word) : signedRemainder n d = n.srem d := by
  rw [signedRemainder, ← Int.tmod_def, ← BitVec.toInt_srem, BitVec.ofInt_toInt]

/-- The quotient of a defined division fits a word: only -2^31 by -1 leaves the range. -/
theorem signedQuotient_toInt {n d : Word} (h : signedDivisionOpen n d = false) :
    (signedQuotient n d).toInt = n.toInt.tdiv d.toInt := by
  rw [signedQuotient_eq_sdiv]
  apply BitVec.toInt_sdiv_of_ne_or_ne
  simp only [signedDivisionOpen, Bool.or_eq_false_iff, Bool.and_eq_false_iff,
    beq_eq_false_iff_ne] at h
  exact h.2

/-- The remainder always fits a word. -/
theorem signedRemainder_toInt (n d : Word) :
    (signedRemainder n d).toInt = n.toInt - d.toInt * n.toInt.tdiv d.toInt := by
  rw [signedRemainder_eq_srem, BitVec.toInt_srem, Int.tmod_def]

theorem unsignedQuotient_toNat (n d : Word) :
    (unsignedQuotient n d).toNat = n.toNat / d.toNat := by
  rw [unsignedQuotient, BitVec.toNat_ofNat,
    Nat.mod_eq_of_lt ((Nat.div_le_self _ _).trans_lt n.isLt)]

theorem unsignedRemainder_toNat (n d : Word) :
    (unsignedRemainder n d).toNat = n.toNat % d.toNat := by
  rw [unsignedRemainder, BitVec.toNat_ofNat,
    Nat.mod_eq_of_lt ((Nat.mod_le _ _).trans_lt n.isLt)]

/-- Settles O15: where the division is defined, quotient and remainder are words
(`signedQuotient_toInt`, `signedRemainder_toInt`). -/
theorem divide : Obligations.Divide := by
  intro s rs rt h hzero
  refine ⟨fun hcorner => ?_, ?_⟩
  · have hdef : signedDivisionOpen (s.rsVal rs) (s.rtVal rt) = false := by
      rw [← Bool.not_eq_true, signedDivisionOpen_iff]
      exact not_or.mpr ⟨hzero, hcorner⟩
    have hq := signedQuotient_toInt hdef
    obtain ⟨t, ht, ⟨hlo, hhi⟩, hframe⟩ := hiLo_written
      (P := fun hi lo => lo.toInt = (s.rsVal rs).toInt.tdiv (s.rtVal rt).toInt ∧
        hi.toInt = (s.rsVal rs).toInt - (s.rtVal rt).toInt * lo.toInt)
      h (exec_div_of_defined hdef) ⟨hq, hq ▸ signedRemainder_toInt _ _⟩
    exact ⟨t, ht, hlo, hhi, hframe⟩
  · obtain ⟨t, ht, ⟨hlo, hhi⟩, hframe⟩ := hiLo_written
      (P := fun hi lo => lo.toNat = (s.rsVal rs).toNat / (s.rtVal rt).toNat ∧
        hi.toNat = (s.rsVal rs).toNat % (s.rtVal rt).toNat)
      h (exec_divu_of_ne_zero hzero) ⟨unsignedQuotient_toNat _ _, unsignedRemainder_toNat _ _⟩
    exact ⟨t, ht, hlo, hhi, hframe⟩

/-- A writer of HI and LO leaves exactly the two words it writes. -/
theorem hiLo_written_words {i : Instr} {hi lo : Word} (h : HiLoWritable s)
    (hexec : exec i s = s.writeHiLo hi lo) :
    ∃ t, exec i s = .next t ∧ t.hi = hi ∧ t.lo = lo ∧ SameButHiLo s t ∧ GoesOn s t := by
  obtain ⟨t, ht, ⟨hhi, hlo⟩, hframe⟩ :=
    hiLo_written (P := fun a b => a = hi ∧ b = lo) h hexec ⟨rfl, rfl⟩
  exact ⟨t, ht, hhi, hlo, hframe⟩

/-- Settles O16: where the result is undefined, DIV and DIVU write free values. -/
theorem divisionCorners : Obligations.DivisionCorners := fun _ _ _ h =>
  ⟨fun hopen => hiLo_written_words h (exec_div_of_open (signedDivisionOpen_iff.mpr hopen)),
    fun hzero => hiLo_written_words h (exec_divu_of_zero hzero)⟩

/-- A move from HI or LO is a register write but for the history (R164, R165). -/
theorem results_of_moveFromHiLo {i : Instr} {r : Reg} {v : Word}
    (h : exec i s = s.moveFromHiLo r v) : Results i s r v :=
  ⟨_, h, written_writeGpr s r v, sameBut_writeAndAdvance s r v,
    goesOn_of_advance rfl rfl rfl, rfl⟩

/-- Settles O17: the moves from HI and LO write a register, the moves to them one half and, with it,
the other as it was. -/
theorem hiLoMoves : Obligations.HiLoMoves := by
  intro s r
  refine ⟨results_of_moveFromHiLo rfl, results_of_moveFromHiLo rfl, fun h => ⟨?_, ?_⟩⟩
  · exact hiLo_written_words h rfl
  · obtain ⟨t, ht, hhi, hlo, hframe⟩ := hiLo_written_words (i := .mtlo r) h rfl
    exact ⟨t, ht, hlo, hhi, hframe⟩

end Sys2Proof.Machine
end

section
/-! PROOFS. The statements of 60_exceptions.md on the entry of an exception, of
70_reset_and_hazards.md on reset events, and what the boundary and the fetch lead a step to. -/

namespace Sys2Proof.Machine

variable {s t : State}

/-! ### The entry (60_exceptions.md R203, R238) -/

theorem restartPc_eq (s : State) :
    s.restartPc = if s.delay = .none then s.pc else s.pc - 4#32 := by
  unfold State.restartPc
  cases s.delay <;> rfl

theorem causeAfter_bd (s : State) (e : Exc) :
    (s.causeAfter e).bd = decide (s.delay ≠ .none) := by
  unfold State.causeAfter
  cases s.delay <;> simp

theorem causeAfter_bt_of_slot {taken : Bool} {g : Word} (e : Exc)
    (h : s.delay = .slot taken g) : (s.causeAfter e).bt = taken := by
  simp only [State.causeAfter, h]

theorem causeAfter_bt_of_none (e : Exc) (h : s.delay = .none) :
    (s.causeAfter e).bt = (Config.undef 1 .causeBT s.steps).getLsbD 0 := by
  simp only [State.causeAfter, h]

theorem causeAfter_ce_of_not_cpU {e : Exc} (s : State) (h : ∀ z, e ≠ .cpU z) :
    (s.causeAfter e).ce = Config.undef 2 .causeCE s.steps := by
  cases e with
  | cpU z => exact absurd rfl (h z)
  | int | adEL | adES | ibe | dbe | sys | bp | ri | ovf => rfl

theorem tarAfter_of_taken {g : Word} (h : s.delay = .slot true g) : s.tarAfter = g := by
  simp only [State.tarAfter, h]

theorem tarAfter_of_not_taken (h : ∀ g, s.delay ≠ .slot true g) :
    s.tarAfter = Config.undef 32 .tar s.steps := by
  unfold State.tarAfter
  split
  · exact absurd ‹_› (h _)
  · rfl
  · rfl

theorem badAAfter_of_addressError {e : Exc} {a : Word} (s : State)
    (h : e = .adEL a ∨ e = .adES a) : s.badAAfter e = a := by
  rcases h with rfl | rfl <;> rfl

theorem badAAfter_of_other {e : Exc} (s : State) (h : ∀ a, e ≠ .adEL a ∧ e ≠ .adES a) :
    s.badAAfter e = s.badA := by
  cases e with
  | adEL a => exact absurd rfl (h a).1
  | adES a => exact absurd rfl (h a).2
  | int | ibe | dbe | sys | bp | ri | cpU | ovf => rfl

/-- Everything the entry does, whatever the exception and the vector. -/
theorem entered_enter (s : State) (e : Exc) (vector : Word) :
    Entered s (s.enter e vector) e vector where
  pc := rfl
  delay := rfl
  epc := restartPc_eq s
  bd := causeAfter_bd s e
  bt := fun _ _ => causeAfter_bt_of_slot e
  btFree := causeAfter_bt_of_none e
  tar := fun _ => tarAfter_of_taken
  tarFree := tarAfter_of_not_taken
  code := rfl
  ce := fun _ hz => by rw [enter_cause, hz]; rfl
  ceFree := causeAfter_ce_of_not_cpU s
  sw := rfl
  badA := fun _ => badAAfter_of_addressError s
  badAKept := badAAfter_of_other s
  stack := pushStatus_stack s.sr
  srRest := pushStatus_rest s.sr
  hi := rfl
  lo := rfl
  gprs := fun _ _ => rfl
  debug := ⟨rfl, rfl, rfl, rfl, rfl⟩
  memory := ⟨fun _ => rfl, rfl, rfl⟩
  outside := ⟨rfl, rfl, rfl, rfl⟩
  loadDelay := rfl
  arrival := rfl
  hiloGuard := ⟨rfl, rfl⟩
  wrapped := rfl
  window := windowAfterEntry_eq s.cp0Window

theorem entered_raise (s : State) (e : Exc) : Entered s (s.raise e) e s.generalVector :=
  entered_enter s e _

theorem entered_raiseDebug (s : State) : Entered s s.raiseDebug .bp s.debugVector :=
  entered_enter s .bp _

/-- Settles O41: the entry field by field (`entered_enter`), and the ten codes, which are those of
the parameter in the order its legality lists them. -/
theorem exceptionEntry : Obligations.ExceptionEntry := by
  refine ⟨fun s e => ⟨entered_raise s e, entered_raiseDebug s⟩, fun c a b z => ⟨?_, rfl, rfl⟩⟩
  rintro ⟨hnodup, hint, -⟩
  exact ⟨hnodup, hint⟩

/-- Settles O32: both instructions raise, whatever the state and the code field. -/
theorem syscallAndBreak : Obligations.SyscallAndBreak := fun s _ =>
  ⟨⟨_, rfl, entered_raise s .sys⟩, ⟨_, rfl, entered_raise s .bp⟩⟩

/-! ### HI and LO at the entry (43_muldiv.md R168, log entry 11) -/

theorem writesHiLo_iff (i : Instr) : Instr.writesHiLo i = true ↔
    ∃ rs rt, i ∈ [Instr.mult rs rt, .multu rs rt, .div rs rt, .divu rs rt, .mthi rs,
      .mtlo rs] := by
  cases i <;> simp [Instr.writesHiLo]

/-- The word at an aligned next pc decides: the decoder reads it as the instruction it encodes. -/
theorem followerWritesHiLo_eq {i : Instr} (haligned : s.nextPc.toNat % 4 = 0)
    (hword : s.mem.readWord s.cfg.bigEndian s.nextPc.toNat = encode i) :
    s.followerWritesHiLo = Instr.writesHiLo i := by
  have hlow : s.nextPc.extractLsb' 0 2 = 0#2 := extract_low_eq_zero.mpr haligned
  simp [State.followerWritesHiLo, hlow, hword, decodeOfEncode i]

/-- Settles O44: an entry draws free values for HI and LO exactly if the next word is a writer
(`followerWritesHiLo_eq`). -/
theorem hiLoAtEntry : Obligations.HiLoAtEntry := by
  intro s e i haligned hword
  have hfollower := followerWritesHiLo_eq haligned hword
  refine ⟨fun hi t ht => ?_, fun hi t ht => ?_⟩
  · have hwrites : s.followerWritesHiLo = true := hfollower.trans ((writesHiLo_iff i).mpr hi)
    simp only [List.mem_cons, List.not_mem_nil, or_false] at ht
    rcases ht with rfl | rfl <;>
      simp [raise_eq_enter, raiseDebug_eq_enter, hwrites]
  · have hwrites : s.followerWritesHiLo = false := by
      rw [hfollower, ← Bool.not_eq_true, writesHiLo_iff]
      rintro ⟨rs, rt, hmem⟩
      exact hi rs rt hmem
    simp only [List.mem_cons, List.not_mem_nil, or_false] at ht
    rcases ht with rfl | rfl <;>
      simp [raise_eq_enter, raiseDebug_eq_enter, hwrites]

/-! ### What a step is (10_state.md R13, 70_reset_and_hazards.md R260) -/

theorem step_of_reset {ev : ResetEvent} (h : s.env.reset = some ev) :
    step s = .next (s.resetBy ev).nextEnv := by
  simp only [step, h]

theorem step_of_no_reset (h : s.env.reset = none) :
    step s = settleEnv (runBoundary s.notePar) := by
  simp only [step, h]

theorem step_of_no_event (hreset : s.env.reset = none) (hparity : s.env.parityError = false) :
    step s = settleEnv (runBoundary s) := by
  rw [step_of_no_reset hreset, notePar_eq_self s hparity]

/-- What ends the boundary ends the step. -/
theorem step_of_fetchPhase_stop {r : Result} (hreset : s.env.reset = none)
    (hparity : s.env.parityError = false) (h : s.fetchPhase = .stop r) :
    step s = settleEnv r := by
  rw [step_of_no_event hreset hparity, runBoundary, h]

/-- With no event at the boundary, what comes before the execution is the fetch. -/
theorem fetchPhase_of_quiet (h : Quiet s) : s.fetchPhase = s.checkedFetch := by
  obtain ⟨-, -, hwrapped, hstore, hint⟩ := h
  simp [State.fetchPhase, hwrapped, hstore, hint]

theorem step_of_fetch_stop {r : Result} (hq : Quiet s) (h : s.checkedFetch = .stop r) :
    step s = settleEnv r := by
  have hfetch := fetchPhase_of_quiet hq
  obtain ⟨hreset, hparity, -⟩ := hq
  exact step_of_fetchPhase_stop hreset hparity (hfetch.trans h)

theorem step_of_fetch_done {w : Word} (hq : Quiet s) (h : s.checkedFetch = .done t w) :
    step s = settleEnv (runWord t w) := by
  have hfetch := fetchPhase_of_quiet hq
  obtain ⟨hreset, hparity, -⟩ := hq
  rw [step_of_no_event hreset hparity, runBoundary, hfetch, h]

/-- Settles O53: the fields of `resetBy`, one by one. -/
theorem resetEvents : Obligations.ResetEvents := by
  intro s ev hev
  refine ⟨s.resetBy ev, step_of_reset hev, resetBy_pc s ev, resetBy_delay s ev, resetBy_sr s ev,
    resetBy_cause s ev, resetBy_dcic s ev, resetBy_bpcm s ev, resetBy_bdam s ev, gpr_zero _,
    fun r hr => ?gpr, resetBy_hi s ev, resetBy_lo s ev, resetBy_badA s ev, fun hk => ?warm,
    fun hk => ?cold, resetBy_mem s ev, resetBy_stored s ev, resetBy_cfg s ev,
    resetBy_loadDelay s ev, resetBy_arrival s ev, resetBy_wrapped s ev, resetBy_hiloGuard s ev,
    resetBy_hiloFollowers s ev, resetBy_cp0Window s ev, resetBy_pendingStoreErrors s ev⟩
  case gpr =>
    have hne : r.toNat ≠ 0 := fun h => hr (BitVec.eq_of_toNat_eq h)
    simp only [State.gpr, State.resetBy, Vector.getElem_ofFn, if_neg hr, if_neg hne]
  case warm =>
    rw [resetBy_epc, resetBy_tar, resetBy_bpc, resetBy_bda, hk]
    exact ⟨rfl, rfl, rfl, rfl⟩
  case cold =>
    rw [resetBy_epc, resetBy_tar, resetBy_bpc, resetBy_bda, hk]
    exact ⟨rfl, rfl, rfl, rfl⟩

/-- Settles O52: noting the parity error gives the state of the right side, where nothing is left to
note. -/
theorem parityError : Obligations.ParityError := by
  intro s hreset hparity
  have hnoted : s.notePar = { s with
      sr := s.sr ||| 0x00100000#32
      env := { s.env with parityError := false } } := by
    simp only [State.notePar, hparity, if_true, srPe]
  rw [← hnoted, step_of_no_reset hreset, step_of_no_reset (s := s.notePar) hreset,
    notePar_notePar]

/-! ### The fetch (20_memory.md R60) -/

theorem fetch_of_addressError (h : s.addressError s.pc 4 = true) :
    s.fetch = .stop (.next (s.raise (.adEL s.pc))) := by
  simp only [State.fetch, h, if_true]

/-- A hit that traps ends the fetch with the debug exception. -/
theorem fetch_of_trap (ha : s.addressError s.pc 4 = false)
    (hhit : s.traceHit = true ∨ s.pcHit s.pc = true) (htraps : s.debugTraps = true) :
    s.fetch = .stop (.next s.fetchPosted.raiseDebug) := by
  have hbits : s.fetchHitBits ≠ 0#32 := fun h => by
    obtain ⟨ht, hp⟩ := (fetchHitBits_eq_zero s).mp h
    simp [ht, hp] at hhit
  unfold State.fetch
  simp [ha, hbits, postDebug_fetchHitBits, fetchPosted_debugTraps, htraps]

/-- Past the checks of the CPU the platform decides. -/
theorem fetch_past_checks (ha : s.addressError s.pc 4 = false)
    (hpass : (s.traceHit = false ∧ s.pcHit s.pc = false) ∨ s.debugTraps = false) :
    s.fetch =
      if platformAnswers s.cfg s.pc.toNat 4 .fetch = false then
        if berrPromised s.cfg s.pc.toNat 4 .fetch then .stop (.next (s.fetchPosted.raise .ibe))
        else .stop (.fault .stuckAccess)
      else if s.env.berrFetch then .stop (.next (s.fetchPosted.raise .ibe))
      else if s.storedIn s.pc.toNat 4 then .stop (.refused .fetchOfStoredByte)
      else .done s.fetchPosted (s.mem.readWord s.cfg.bigEndian s.pc.toNat) := by
  have hno : (s.fetchHitBits != 0#32 && s.fetchPosted.debugTraps) = false := by
    rw [fetchPosted_debugTraps]
    rcases hpass with h | h
    · simp [(fetchHitBits_eq_zero s).mpr h]
    · simp [h]
  unfold State.fetch
  dsimp only
  rw [postDebug_fetchHitBits, ha, hno]
  simp only [Bool.false_eq_true, if_false, Bool.not_eq_true']
  rfl

theorem fetch_of_goes (h : FetchGoes s) :
    s.fetch = .done s.fetchPosted (s.mem.readWord s.cfg.bigEndian s.pc.toNat) := by
  obtain ⟨ha, hpass, hanswers, hberr, hstored⟩ := h
  simp [fetch_past_checks ha hpass, hanswers, hberr, hstored]

theorem checkedFetch_of_goes (h : FetchGoes s) (hu : s.unsettled State.fetchOutlook = false) :
    s.checkedFetch = .done s.fetchPosted (s.mem.readWord s.cfg.bigEndian s.pc.toNat) := by
  simp [State.checkedFetch, hu, fetch_of_goes h]

/-- Where no window is depended on, what ends the fetch ends the step. -/
theorem step_of_settled_fetch_stop {r : Result} (hq : Quiet s) (hs : FetchSettled s)
    (h : s.fetch = .stop r) : step s = settleEnv r :=
  step_of_fetch_stop hq ((checkedFetch_of_settled hs.1 hs.2).trans h)

/-- A step whose fetch goes through runs the word from the posted state. -/
theorem step_of_fetched (hq : Quiet s) (hfetch : s.unsettled State.fetchOutlook = false)
    (hg : FetchGoes s) : step s =
      settleEnv (runWord s.fetchPosted (s.mem.readWord s.cfg.bigEndian s.pc.toNat)) :=
  step_of_fetch_done hq (checkedFetch_of_goes hg hfetch)

/-- Where the word depends on no window, that is the check of its meaning. -/
theorem step_of_goes {w : Word} (hq : Quiet s) (hg : FetchGoes s)
    (hw : w = s.mem.readWord s.cfg.bigEndian s.pc.toNat) (hs : WordSettled s w) :
    step s = settleEnv (s.fetchPosted.checkEntry (meaning s.fetchPosted w)) := by
  subst hw
  obtain ⟨hfetch, hword⟩ := hs
  rw [step_of_fetched hq hfetch hg, runWord, hword]
  rfl

/-- The check lets through an outcome that is no entry, or one that depends on no window. -/
theorem checkEntry_of_passes {r : Result}
    (h : ∀ t, r = .next t → t.arrival = .vector → s.entryUnsettled = false) :
    s.checkEntry r = r := by
  cases r with
  | next t =>
    cases hu : s.entryUnsettled with
    | false => exact checkEntry_of_settled hu _
    | true =>
      have hne : t.arrival ≠ .vector := fun hv => by simp [h t rfl hv] at hu
      simp [State.checkEntry, hne]
  | fault f => rfl
  | refused x => rfl

/-! ### The statements on the step -/

theorem meaning_of_decode {w : Word} {i : Instr} (h : decode w = .ok i) (s : State) :
    meaning s w = exec i s := by
  simp only [meaning, h]

/-- Settles O50, from `step_of_goes`: the meaning of a word of the table is its instruction's. -/
theorem stepRunsInstruction : Obligations.StepRunsInstruction := by
  intro s i hq hg hdecode hs
  rw [step_of_goes hq hg rfl hs, meaning_of_decode hdecode]
  refine ⟨fun t ht hpass => ?_, fun f hf => ?_, fun x hx => ?_⟩
  · rw [checkEntry_of_passes fun u hu hv => ?_, ht]
    · rfl
    · cases hu.symm.trans ht
      exact hpass hv
  · rw [hf]
    rfl
  · rw [hx]
    rfl

/-- Settles O49: the trap ends the fetch (`fetch_of_trap`), and the entry is the debug one from the
posted state, whose vector is that of the state before. -/
theorem fetchDebugTrap : Obligations.FetchDebugTrap := fun s hq hs ha hhit htraps =>
  ⟨s.fetchPosted.raiseDebug, step_of_settled_fetch_stop hq hs (fetch_of_trap ha hhit htraps),
    entered_raiseDebug s.fetchPosted⟩

/-- Settles O46: the boundary takes the late bus error first, then the interrupt. -/
theorem asynchronousEntries : Obligations.AsynchronousEntries := by
  intro s hreset hparity hwrapped
  refine ⟨fun hpending hdeliver => ?_, fun hnone hpending htake => ?_⟩
  · have hdue : s.storeErrorDue = true := by simp [State.storeErrorDue, hpending, hdeliver]
    refine ⟨_, step_of_fetchPhase_stop (r := .next _) hreset hparity ?_, entered_raise _ .dbe⟩
    simp [State.fetchPhase, hwrapped, hdue]
  · have hdue : s.storeErrorDue = false := by
      rcases hnone with h | h <;> simp [State.storeErrorDue, h]
    have htaken : s.interruptTaken = true := by simp [State.interruptTaken, hpending, htake]
    refine ⟨_, step_of_fetchPhase_stop (r := .next _) hreset hparity ?_, entered_raise s .int⟩
    simp [State.fetchPhase, hwrapped, hdue, htaken]

/-! ### The end of what the environment defers (60_exceptions.md R217, R228) -/

/-- After a step with nothing scheduled the environment is at rest: no event, nothing deferred. -/
theorem env_of_schedule_end (hstep : step s = .next t) (h : s.schedule = []) :
    t.env.reset = none ∧ t.env.parityError = false ∧ t.env.takeInterrupt = true ∧
      t.env.deliverStoreError = true := by
  obtain ⟨-, -, henv⟩ := outsideUnchanged s t hstep
  rw [henv, h]
  exact ⟨rfl, rfl, rfl, rfl⟩

/-- A run longer than the schedule ends with the schedule used up and the environment at rest. -/
theorem env_of_long_run {n : Nat} (hn : s.schedule.length < n) (hruns : Runs n s t) :
    t.schedule = [] ∧ t.env.reset = none ∧ t.env.parityError = false ∧
      t.env.takeInterrupt = true ∧ t.env.deliverStoreError = true := by
  induction n generalizing s with
  | zero => exact absurd hn (Nat.not_lt_zero _)
  | succ n ih =>
    obtain ⟨u, hstep, hruns⟩ := hruns
    have hschedule : u.schedule = s.schedule.tail := (outsideUnchanged s u hstep).2.1
    cases n with
    | zero =>
      have hs : s.schedule = [] := List.length_eq_zero_iff.mp (by omega)
      obtain rfl : t = u := hruns
      exact ⟨by rw [hschedule, hs, List.tail_nil], env_of_schedule_end hstep hs⟩
    | succ n => exact ih (by rw [hschedule, List.length_tail]; omega) hruns

/-- Settles O47: at the end of such a run the environment is at rest (`env_of_long_run`), so what is
due is taken (O46). -/
theorem deferralEnds : Obligations.DeferralEnds := by
  intro n s t hn hruns
  obtain ⟨hschedule, hreset, hparity, htake, hdeliver⟩ := env_of_long_run hn hruns
  refine ⟨hschedule, hreset, hparity, fun hwrapped => ?_⟩
  obtain ⟨hstore, hint⟩ := asynchronousEntries t hreset hparity hwrapped
  exact ⟨fun hpending => hstore hpending hdeliver,
    fun hnone hpending => hint (.inl hnone) hpending htake⟩

/-! ### Words outside the table (30_encoding.md R88, R89; 41_system_cp0.md R120, R129) -/

theorem meaning_of_decode_error {w : Word} {e : DecodeError} (h : decode w = .error e)
    (s : State) : meaning s w = s.undecoded w := by
  simp only [meaning, h]

theorem undecoded_of_unusable {w : Word} {z : BitVec 2} (hz : coprocessorOf w = some z)
    (hu : s.usable z = false) : s.undecoded w = .next (s.raise (.cpU z)) := by
  simp [State.undecoded, hz, hu]

/-- Past the usability test a reserved word raises RI, and any other word is refused by the name of
its class. -/
theorem undecoded_of_usable {w : Word} (hu : ∀ z, coprocessorOf w = some z → s.usable z = true) :
    s.undecoded w = if reservedOpcode s.cfg w then .next (s.raise .ri)
      else .refused (match coprocessorOf w with
        | some _ => .coprocessorWord
        | none => .wordOutsideTable) := by
  unfold State.undecoded
  cases hz : coprocessorOf w with
  | some z => simp [hu z hz]
  | none => rfl

/-- The coprocessor of a word from its major operation code. -/
theorem coprocessorOf_eq_some_iff (w : Word) (z : BitVec 2) : coprocessorOf w = some z ↔
    (opField w).toNat = 16 + z.toNat ∨ (opField w).toNat = 48 + z.toNat ∨
      (opField w).toNat = 56 + z.toNat := by
  have hz := z.isLt
  have hlow : (opField w).extractLsb' 0 2 = z ↔ (opField w).toNat % 4 = z.toNat := by
    rw [← BitVec.toNat_inj, BitVec.extractLsb'_toNat, Nat.shiftRight_zero]
  unfold coprocessorOf
  dsimp only
  split
  · rw [Option.some_inj, hlow]
    omega
  · simp only [reduceCtorEq, false_iff]
    omega

theorem opField_toNat (w : Word) : (opField w).toNat = w.toNat / 2 ^ 26 := by
  have hw := w.isLt
  rw [opField, extract_toNat]
  omega

/-- Settles O5: the branches of `undecoded`, the step that comes to them (`step_of_goes`), and the
coprocessor as a number (`coprocessorOf_eq_some_iff`). -/
theorem wordsOutsideTable : Obligations.WordsOutsideTable := by
  refine ⟨fun s w e he => ?_, fun s w e hq hg hw he hs => ?_, fun w z => ?_⟩
  · rw [meaning_of_decode_error he]
    refine ⟨fun z hz hu => undecoded_of_unusable hz hu, fun hu => ?_⟩
    rw [undecoded_of_usable hu]
    refine ⟨fun hr => if_pos hr, fun hr => ?_⟩
    rw [hr]
    rfl
  · rw [step_of_goes hq hg hw hs]
    refine ⟨fun t ht hentry => ?_, fun x hx => ?_⟩
    · rw [checkEntry_of_settled hentry, ht]
      rfl
    · rw [hx]
      rfl
  · rw [coprocessorOf_eq_some_iff, opField_toNat]

end Sys2Proof.Machine
end

section
/-! PROOFS. The statements on loads and stores (40_loads_stores.md, 20_memory.md R62): how each
access ends, in the order of the checks. -/

namespace Sys2Proof.Machine

variable {s t : State}

/-! ### The checks of the CPU (20_memory.md R62, steps 1 to 3) -/

theorem checkAccess_of_addressError {ea : Word} {w : Width} (store : Bool)
    (h : s.addressError ea w.bytes = true) : s.checkAccess ea w store =
      .stop (.next (s.raise (if store then .adES ea else .adEL ea))) := by
  simp only [State.checkAccess, h, if_true]

theorem checkAccess_of_isolated {ea : Word} {w : Width} (store : Bool)
    (ha : s.addressError ea w.bytes = false) (hi : s.isc = true) :
    s.checkAccess ea w store = .stop (.refused .cacheIsolated) := by
  simp [State.checkAccess, ha, hi]

theorem checkAccess_of_trap {ea : Word} {w : Width} {store : Bool}
    (ha : s.addressError ea w.bytes = false) (hi : s.isc = false)
    (hhit : s.daHit ea store = true) (htraps : s.debugTraps = true) :
    s.checkAccess ea w store = .stop (.next (s.accessPosted ea store).raiseDebug) := by
  rcases checkAccess_cases s ea w store with ⟨h1, -⟩ | ⟨-, h2, -⟩ | ⟨-, -, -, -, hc⟩ |
    ⟨-, -, h3, -⟩
  · simp [ha] at h1
  · simp [hi] at h2
  · rw [hc, postDebug_dataHitBits]
  · rw [dataHitBits_eq_zero] at h3
    simp [hhit, htraps] at h3

theorem checkAccess_of_passes {ea : Word} {w : Width} {store : Bool}
    (h : AccessPasses s ea w store) :
    s.checkAccess ea w store = .done (s.accessPosted ea store) () := by
  obtain ⟨ha, hi, hpass⟩ := h
  rcases checkAccess_cases s ea w store with ⟨h1, -⟩ | ⟨-, h2, -⟩ | ⟨-, -, h3, h4, -⟩ |
    ⟨-, -, -, hc⟩
  · simp [ha] at h1
  · simp [hi] at h2
  · rw [Ne, dataHitBits_eq_zero] at h3
    simp [h3, h4] at hpass
  · rw [hc, postDebug_dataHitBits]

/-! ### The platform's answer to a load (20_memory.md R61, 60_exceptions.md R216) -/

section
variable {ea : Word} {w : Width} (ext : Half → Word)

theorem loadData_of_stop {r : Result} (h : s.checkAccess ea w false = .stop r) :
    s.loadData ea w ext = .stop r := by
  simp only [State.loadData, h]

theorem loadData_of_serves (h : AccessPasses s ea w false) (hp : PlatformServes s ea w .load) :
    s.loadData ea w ext =
      .done (s.accessPosted ea false) (s.readData ea w ext) := by
  obtain ⟨hanswers, hberr⟩ := hp
  have hanswers' : platformAnswers (s.accessPosted ea false).cfg ea.toNat w.bytes .load = true :=
    hanswers
  have hberr' : (s.accessPosted ea false).env.berrData = false := hberr
  simp only [State.loadData, checkAccess_of_passes h, hanswers', hberr', Bool.not_true,
    Bool.false_eq_true, if_false]
  cases w <;> rfl

theorem loadData_of_fails (h : AccessPasses s ea w false) (hp : PlatformFails s ea w .load) :
    s.loadData ea w ext = .stop (.next ((s.accessPosted ea false).raise .dbe)) := by
  have hcfg : (s.accessPosted ea false).cfg = s.cfg := rfl
  have henv : (s.accessPosted ea false).env = s.env := rfl
  rcases hp with ⟨hanswers, hberr⟩ | ⟨hanswers, hpromised⟩
  · simp [State.loadData, checkAccess_of_passes h, hcfg, henv, hanswers, hberr]
  · simp [State.loadData, checkAccess_of_passes h, hcfg, hanswers, hpromised]

theorem loadData_of_silent (h : AccessPasses s ea w false) (hp : PlatformSilent s ea w .load) :
    s.loadData ea w ext = .stop (.fault .stuckAccess) := by
  obtain ⟨hanswers, hpromised⟩ := hp
  have hcfg : (s.accessPosted ea false).cfg = s.cfg := rfl
  simp [State.loadData, checkAccess_of_passes h, hcfg, hanswers, hpromised]

end

/-! ### The platform's answer to a store (20_memory.md R61, 60_exceptions.md R217) -/

section
variable {ea : Word} {w : Width} (v : Word)

theorem storeData_of_stop {r : Result} (h : s.checkAccess ea w true = .stop r) :
    s.storeData ea w v = .stop r := by
  simp only [State.storeData, h]

theorem storeData_of_serves (h : AccessPasses s ea w true) (hp : PlatformServes s ea w .store) :
    s.storeData ea w v =
      .done ((s.accessPosted ea true).putBytes ea (s.storeBytes w v)) () := by
  obtain ⟨hanswers, hberr⟩ := hp
  have hanswers' : platformAnswers (s.accessPosted ea true).cfg ea.toNat w.bytes .store = true :=
    hanswers
  have hberr' : (s.accessPosted ea true).env.berrData = false := hberr
  simp only [State.storeData, checkAccess_of_passes h, hanswers', hberr', Bool.not_true,
    Bool.false_eq_true, if_false]
  cases w <;> rfl

theorem storeData_of_fails (h : AccessPasses s ea w true) (hp : PlatformFails s ea w .store) :
    s.storeData ea w v = .done ((s.accessPosted ea true).failStore ea w) () := by
  have hcfg : (s.accessPosted ea true).cfg = s.cfg := rfl
  have henv : (s.accessPosted ea true).env = s.env := rfl
  rcases hp with ⟨hanswers, hberr⟩ | ⟨hanswers, hpromised⟩
  · simp [State.storeData, checkAccess_of_passes h, hcfg, henv, hanswers, hberr]
  · simp [State.storeData, checkAccess_of_passes h, hcfg, hanswers, hpromised]

theorem storeData_of_silent (h : AccessPasses s ea w true)
    (hp : PlatformSilent s ea w .store) :
    s.storeData ea w v = .stop (.fault .stuckAccess) := by
  obtain ⟨hanswers, hpromised⟩ := hp
  have hcfg : (s.accessPosted ea true).cfg = s.cfg := rfl
  simp [State.storeData, checkAccess_of_passes h, hcfg, hanswers, hpromised]

end

/-! ### Loads and stores that complete -/

section
variable {rt rs : Reg} {imm : Half} {w : Width}

theorem load_of_stop {r : Result} (ext : Half → Word)
    (h : s.loadData (s.effectiveAddress rs imm) w ext = .stop r) :
    s.load rt rs imm w ext = r := by
  simp only [State.load, h]

theorem store_of_stop {r : Result}
    (h : s.storeData (s.effectiveAddress rs imm) w (s.rtVal rt) = .stop r) :
    s.store rt rs imm w = r := by
  simp only [State.store, h]

/-- A load that completes writes the register, delays it and goes on. -/
theorem load_completes {ext : Half → Word}
    (h : AccessPasses s (s.effectiveAddress rs imm) w false)
    (hp : PlatformServes s (s.effectiveAddress rs imm) w .load) :
    ∃ t, s.load rt rs imm w ext = .next t ∧
      Written s t rt (s.readData (s.effectiveAddress rs imm) w ext) ∧
      SameBut [rt] (s.accessPosted (s.effectiveAddress rs imm) false) t ∧ GoesOn s t ∧
      t.loadDelay = if rt = 0#5 then none else some rt := by
  refine ⟨(s.accessPosted (s.effectiveAddress rs imm) false).loadAndAdvance rt
    (s.readData (s.effectiveAddress rs imm) w ext), ?_,
    written_writeGpr (s.accessPosted (s.effectiveAddress rs imm) false) rt _,
    sameBut_writeAndAdvance (s.accessPosted (s.effectiveAddress rs imm) false) rt _,
    goesOn_of_advance rfl rfl rfl, rfl⟩
  simp only [State.load, loadData_of_serves ext h hp]

/-- Putting bytes and going on changes those bytes and what counts as stored (R56, R66). -/
theorem sameButMemory_putBytes (s : State) (ea : Word) (bs : List Byte) :
    SameButMemory ea.toNat bs.length s (s.putBytes ea bs).advance := by
  refine ⟨fun _ _ => rfl, ⟨rfl, rfl⟩, ⟨rfl, rfl, rfl, rfl, rfl⟩, ⟨rfl, rfl, rfl, rfl, rfl⟩,
    fun x hx => ⟨?_, ?_⟩, fun x => ?_, rfl, rfl, rfl⟩
  · exact read_writeBytes_outside bs s.mem ea.toNat x hx
  · exact recorded_writeBytes_outside bs s.mem ea.toNat x hx
  · rw [advance_stored, putBytes_stored, mem_insertAddresses, or_comm]

/-- A store that completes puts its bytes and goes on. -/
theorem store_completes (h : AccessPasses s (s.effectiveAddress rs imm) w true)
    (hp : PlatformServes s (s.effectiveAddress rs imm) w .store) :
    ∃ t, s.store rt rs imm w = .next t ∧
      t.mem = s.mem.writeBytes (s.effectiveAddress rs imm).toNat
        (s.storeBytes w (s.rtVal rt)) ∧
      SameButMemory (s.effectiveAddress rs imm).toNat w.bytes
        (s.accessPosted (s.effectiveAddress rs imm) true) t ∧
      t.pendingStoreErrors = s.pendingStoreErrors ∧ GoesOn s t := by
  refine ⟨((s.accessPosted (s.effectiveAddress rs imm) true).putBytes
    (s.effectiveAddress rs imm) (s.storeBytes w (s.rtVal rt))).advance, ?_, rfl, ?_, rfl,
    goesOn_of_advance rfl rfl rfl⟩
  · simp only [State.store, storeData_of_serves (s.rtVal rt) h hp]
  · exact storeBytes_length s w (s.rtVal rt) ▸ sameButMemory_putBytes _ _ _

/-- A store whose transaction fails puts free bytes, owes a bus error and goes on. -/
theorem store_fails (h : AccessPasses s (s.effectiveAddress rs imm) w true)
    (hp : PlatformFails s (s.effectiveAddress rs imm) w .store) :
    ∃ t, s.store rt rs imm w = .next t ∧
      (∀ i, i < w.bytes → t.mem.read ((s.effectiveAddress rs imm).toNat + i) =
        Config.undef 8 (.storeByte i) s.steps) ∧
      SameButMemory (s.effectiveAddress rs imm).toNat w.bytes
        (s.accessPosted (s.effectiveAddress rs imm) true) t ∧
      t.pendingStoreErrors = s.pendingStoreErrors + 1 ∧ GoesOn s t := by
  refine ⟨((s.accessPosted (s.effectiveAddress rs imm) true).failStore
    (s.effectiveAddress rs imm) w).advance, ?_, fun i hi => ?_, ?_, ?_,
    goesOn_of_advance rfl rfl rfl⟩
  · simp only [State.store, storeData_of_fails (s.rtVal rt) h hp]
  · rw [advance_mem, failStore_mem, read_writeBytes_inside _ _ _ _ (by simpa using hi)]
    simp only [State.lostBytes, List.getElem_map, List.getElem_range]
    rfl
  · exact lostBytes_length s w ▸ sameButMemory_putBytes
      (s.accessPosted (s.effectiveAddress rs imm) true) _ (s.lostBytes w)
  · rw [advance_pendingStoreErrors, failStore_pendingStoreErrors]
    rfl

end

/-! ### The statements -/

/-- Settles O20: `load_completes` for each of the three loads; the address is a sum with a
sign-extended immediate. -/
theorem loadsComplete : Obligations.LoadsComplete := by
  refine ⟨fun s rs imm => word_add_signImm _ imm, fun s rt rs imm p hp => ?_⟩
  simp only [List.mem_cons, List.not_mem_nil, or_false] at hp
  rcases hp with rfl | rfl | rfl
  · exact load_completes (w := .word) (ext := signImm)
  · exact load_completes (w := .half) (ext := signImm)
  · exact load_completes (w := .half) (ext := zeroImm)

/-- Settles O21: `store_completes`, and what the bytes of the register read back as (O8). -/
theorem storesComplete : Obligations.StoresComplete := by
  intro s rt rs imm
  refine ⟨fun h hp => ?_, fun h hp => ?_⟩
  · obtain ⟨t, ht, hmem, hframe⟩ := store_completes (rt := rt) h hp
    exact ⟨t, ht, hmem ▸ readWord_writeBytes _ _ _ _, hframe⟩
  · obtain ⟨t, ht, hmem, hframe⟩ := store_completes (rt := rt) h hp
    exact ⟨t, ht, hmem ▸ readHalf_writeBytes _ _ _ _, hframe⟩

/-- Settles O22, from `store_fails`. -/
theorem failedStores : Obligations.FailedStores := by
  intro s rt rs imm p hp
  simp only [List.mem_cons, List.not_mem_nil, or_false] at hp
  rcases hp with rfl | rfl
  · exact store_fails (w := .word)
  · exact store_fails (w := .half)

/-- How a load does not complete, in the order of the checks. -/
theorem load_stops (s : State) (rt rs : Reg) (imm : Half) (w : Width) (ext : Half → Word) :
    let ea := s.effectiveAddress rs imm
    (s.addressError ea w.bytes = true →
      s.load rt rs imm w ext = .next (s.raise (.adEL ea))) ∧
    (s.addressError ea w.bytes = false → s.isc = true →
      s.load rt rs imm w ext = .refused .cacheIsolated) ∧
    (s.addressError ea w.bytes = false → s.isc = false → s.daHit ea false = true →
      s.debugTraps = true →
      s.load rt rs imm w ext = .next (s.accessPosted ea false).raiseDebug) ∧
    (AccessPasses s ea w false → PlatformFails s ea w .load →
      s.load rt rs imm w ext = .next ((s.accessPosted ea false).raise .dbe)) ∧
    (AccessPasses s ea w false → PlatformSilent s ea w .load →
      s.load rt rs imm w ext = .fault .stuckAccess) :=
  ⟨fun ha => load_of_stop ext (loadData_of_stop ext (checkAccess_of_addressError false ha)),
    fun ha hi => load_of_stop ext (loadData_of_stop ext (checkAccess_of_isolated false ha hi)),
    fun ha hi hhit htraps =>
      load_of_stop ext (loadData_of_stop ext (checkAccess_of_trap ha hi hhit htraps)),
    fun h hp => load_of_stop ext (loadData_of_fails ext h hp),
    fun h hp => load_of_stop ext (loadData_of_silent ext h hp)⟩

/-- How a store does not complete, in the order of the checks; a bus error is none of these. -/
theorem store_stops (s : State) (rt rs : Reg) (imm : Half) (w : Width) :
    let ea := s.effectiveAddress rs imm
    (s.addressError ea w.bytes = true →
      s.store rt rs imm w = .next (s.raise (.adES ea))) ∧
    (s.addressError ea w.bytes = false → s.isc = true →
      s.store rt rs imm w = .refused .cacheIsolated) ∧
    (s.addressError ea w.bytes = false → s.isc = false → s.daHit ea true = true →
      s.debugTraps = true →
      s.store rt rs imm w = .next (s.accessPosted ea true).raiseDebug) ∧
    (AccessPasses s ea w true → PlatformSilent s ea w .store →
      s.store rt rs imm w = .fault .stuckAccess) :=
  ⟨fun ha => store_of_stop (storeData_of_stop _ (checkAccess_of_addressError true ha)),
    fun ha hi => store_of_stop (storeData_of_stop _ (checkAccess_of_isolated true ha hi)),
    fun ha hi hhit htraps =>
      store_of_stop (storeData_of_stop _ (checkAccess_of_trap ha hi hhit htraps)),
    fun h hp => store_of_stop (storeData_of_silent _ h hp)⟩

/-- Settles O23, from `load_stops` and `store_stops`. -/
theorem accessStops : Obligations.AccessStops := by
  refine ⟨fun s => ⟨rfl, rfl⟩, fun s rt rs imm p hp => ?_⟩
  have stops_load (w : Width) (ext : Half → Word) := load_stops s rt rs imm w ext
  have stops_store (w : Width) := store_stops s rt rs imm w
  simp only [List.mem_cons, List.not_mem_nil, or_false] at hp
  rcases hp with rfl | rfl | rfl | rfl | rfl
  · obtain ⟨ha, hi, hd, hb, hs⟩ := stops_load .word signImm
    exact ⟨ha, hi, hd, fun h _ => hb h, hs⟩
  · obtain ⟨ha, hi, hd, hb, hs⟩ := stops_load .half signImm
    exact ⟨ha, hi, hd, fun h _ => hb h, hs⟩
  · obtain ⟨ha, hi, hd, hb, hs⟩ := stops_load .half zeroImm
    exact ⟨ha, hi, hd, fun h _ => hb h, hs⟩
  · obtain ⟨ha, hi, hd, hs⟩ := stops_store .word
    exact ⟨ha, hi, hd, fun _ h => Bool.noConfusion h, hs⟩
  · obtain ⟨ha, hi, hd, hs⟩ := stops_store .half
    exact ⟨ha, hi, hd, fun _ h => Bool.noConfusion h, hs⟩

/-- The condition of an address error (60_exceptions.md R213). -/
theorem addressError_iff (s : State) (a : Word) (n : Nat) : s.addressError a n = true ↔
    a.toNat % n ≠ 0 ∨ (s.sr.getLsbD 1 = true ∧ a.getLsbD 31 = true) := by
  have hmsb : a.msb = a.getLsbD 31 := BitVec.msb_eq_getLsbD_last a
  rw [State.addressError, Bool.or_eq_true, bne_iff_ne, Bool.and_eq_true, hmsb, State.kuc]

/-- Settles O24: the condition (`addressError_iff`), the fetch (`fetch_of_addressError`), and the
first of the stops of every access. -/
theorem addressErrors : Obligations.AddressErrors := by
  refine ⟨addressError_iff, fun s hq hs ha => ?_, fun s rt rs imm => ⟨?_, ?_⟩⟩
  · exact ⟨_, step_of_settled_fetch_stop (r := .next _) hq hs (fetch_of_addressError ha),
      entered_raise s _⟩
  · intro p hp ha
    simp only [List.mem_cons, List.not_mem_nil, or_false] at hp
    rcases hp with rfl | rfl | rfl
    · exact ⟨_, (load_stops s rt rs imm .word signImm).1 ha, entered_raise s _⟩
    · exact ⟨_, (load_stops s rt rs imm .half signImm).1 ha, entered_raise s _⟩
    · exact ⟨_, (load_stops s rt rs imm .half zeroImm).1 ha, entered_raise s _⟩
  · intro p hp ha
    simp only [List.mem_cons, List.not_mem_nil, or_false] at hp
    rcases hp with rfl | rfl
    · exact ⟨_, (store_stops s rt rs imm .word).1 ha, entered_raise s _⟩
    · exact ⟨_, (store_stops s rt rs imm .half).1 ha, entered_raise s _⟩

end Sys2Proof.Machine
end

section
/-! PROOFS. The statements on control transfer (44_control_transfer.md), on the system instructions
and CP0 (41_system_cp0.md), and on the debug conditions (60_exceptions.md). -/

namespace Sys2Proof.Machine

variable {s t : State}

/-! ### Branches and jumps (44_control_transfer.md) -/

/-- Four times an offset, as the branch formats hold it (30_encoding.md R84). -/
theorem offset_toInt (imm : Half) : ((imm ++ 0#2).signExtend 32).toInt = 4 * imm.toInt := by
  rw [BitVec.toInt_signExtend_of_le (by decide), BitVec.toInt_append]
  simp

theorem branchTarget_eq (s : State) (imm : Half) :
    s.branchTarget imm = BitVec.ofInt 32 (s.pc.toNat + 4 + 4 * imm.toInt) := by
  have hslot : BitVec.ofInt 32 (s.pc.toNat + 4) = s.pc + 4#32 := by
    rw [BitVec.ofInt_add, BitVec.ofInt_natCast, BitVec.ofNat_toNat, BitVec.setWidth_eq]
    rfl
  rw [State.branchTarget, BitVec.ofInt_add, hslot, ← offset_toInt, BitVec.ofInt_toInt]

theorem jumpTarget_eq (s : State) (target : BitVec 26) : s.jumpTarget target =
    BitVec.ofNat 32 ((s.pc + 4#32).toNat / 2 ^ 28 * 2 ^ 28 + target.toNat * 4) := by
  have hpc := (s.pc + 4#32).isLt
  have htarget := target.isLt
  apply BitVec.eq_of_toNat_eq
  rw [State.jumpTarget, toNat_append_eq, toNat_append_eq, extract_toNat, BitVec.toNat_ofNat,
    BitVec.toNat_ofNat]
  omega

/-- Outside a delay slot the branch goes on to its own slot. -/
theorem branched_retire (h : s.delay = .none) (taken : Bool) (target : Word) :
    Branched taken target s (s.retire (.slot taken target)) := by
  have htaken : s.delay.taken = false := by
    rw [h]
    rfl
  refine ⟨nextPc_of_not_taken htaken, rfl, ?_⟩
  rw [retire_arrival, htaken]
  rfl

theorem branchesOnly_of_branch {i : Instr} {taken taken' : Bool} {target target' : Word}
    (h : s.delay = .none) (hi : exec i s = s.branch taken target) (htaken : taken = taken')
    (htarget : target = target') : BranchesOnly i s taken' target' := by
  subst htaken htarget
  exact ⟨_, hi.trans (branch_of_none _ _ h), branched_retire h taken target,
    sameBut_retire _ (sameBut_self [] s), rfl⟩

/-- A jump that links writes its register and branches. -/
theorem link_of_branch {i : Instr} {r : Reg} {v target target' : Word} (h : s.delay = .none)
    (hi : exec i s = (s.writeGpr r v).branch true target) (htarget : target = target') :
    ∃ t, exec i s = .next t ∧ Branched true target' s t ∧ Written s t r v ∧ SameBut [r] s t := by
  subst htarget
  exact ⟨_, hi.trans (branch_of_none (s := s.writeGpr r v) _ _ h), branched_retire h true target,
    written_writeGpr s r v, sameBut_retire _ (sameBut_writeGpr s r v)⟩

/-- Settles O26: each is a branch on its condition to `branchTarget`. -/
theorem conditionalBranches : Obligations.ConditionalBranches := by
  intro s rs rt imm h
  have htarget := branchTarget_eq s imm
  refine ⟨branchesOnly_of_branch h rfl rfl htarget, branchesOnly_of_branch h rfl ?ne htarget,
    branchesOnly_of_branch h rfl ?sign htarget⟩
  case ne => rw [Bool.eq_iff_iff, bne_iff_ne, decide_eq_true_iff]
  case sign =>
    rw [Bool.eq_iff_iff, Bool.not_eq_true', BitVec.msb_eq_toInt, decide_eq_false_iff_not,
      decide_eq_true_iff, Int.not_lt]

theorem exec_jalr {rd rs : Reg} (h : rd ≠ rs) (s : State) :
    exec (.jalr rd rs) s = (s.writeGpr rd s.linkValue).branch true (s.rsVal rs) := by
  simp only [exec, execJalr, if_neg h]

/-- Settles O27: each is a taken branch to its target, JAL and JALR from the state with the link
written. -/
theorem jumps : Obligations.Jumps := fun s target _ _ h =>
  ⟨branchesOnly_of_branch h rfl rfl (jumpTarget_eq s target), branchesOnly_of_branch h rfl rfl rfl,
    link_of_branch h rfl (jumpTarget_eq s target),
    fun hne => link_of_branch h (exec_jalr hne s) rfl⟩

/-! ### Coprocessor branches (41_system_cp0.md R120, 44_control_transfer.md R179, R180) -/

theorem copBranch_of_usable {z : BitVec 2} (sense : Bool) (imm : Half) (h : s.usable z = true) :
    s.copBranch z sense imm = s.branch (s.cpcond z == sense) (s.branchTarget imm) := by
  simp only [State.copBranch, h, if_true]

theorem copBranch_of_unusable {z : BitVec 2} (sense : Bool) (imm : Half)
    (h : s.usable z = false) : s.copBranch z sense imm = .next (s.raise (.cpU z)) := by
  simp only [State.copBranch, h, Bool.false_eq_true, if_false]

/-- Settles O28: where usable, a coprocessor branch is a branch on CPC[z]. -/
theorem coprocessorBranches : Obligations.CoprocessorBranches := by
  intro s imm h p hp hu
  have only {i : Instr} {z : BitVec 2} {sense : Bool} (hz : s.usable z = true)
      (hi : exec i s = s.copBranch z sense imm) : BranchesOnly i s
        (decide (s.env.cpc.getLsbD z.toNat = sense))
        (BitVec.ofInt 32 (s.pc.toNat + 4 + 4 * imm.toInt)) :=
    branchesOnly_of_branch h (hi.trans (copBranch_of_usable sense imm hz)) rfl
      (branchTarget_eq s imm)
  simp only [List.mem_cons, List.not_mem_nil, or_false] at hp
  rcases hp with rfl | rfl | rfl | rfl | rfl | rfl | rfl | rfl <;> exact only hu rfl

theorem usable_iff (s : State) (z : BitVec 2) : s.usable z = true ↔
    s.sr.getLsbD (28 + z.toNat) = true ∨ (z = 0#2 ∧ s.sr.getLsbD 1 = false) := by
  rw [State.usable, Bool.or_eq_true, Bool.and_eq_true, beq_iff_eq, Bool.not_eq_true', State.cu,
    State.kuc]

/-- Settles O29: the formula, and the tests that the coprocessor branches, MFC0, MTC0 and RFE begin
with. -/
theorem coprocessorUsability : Obligations.CoprocessorUsability := by
  refine fun s => ⟨usable_iff s, fun imm p hp hu => ?_, fun rt rd i hi hu => ?_⟩
  · simp only [List.mem_cons, List.not_mem_nil, or_false] at hp
    rcases hp with rfl | rfl | rfl | rfl | rfl | rfl | rfl | rfl <;>
      exact copBranch_of_unusable _ imm hu
  · simp only [List.mem_cons, List.not_mem_nil, or_false] at hi
    rcases hi with rfl | rfl | rfl
    · simp only [exec, execMfc0, hu, Bool.false_eq_true, if_false]
    · simp only [exec, execMtc0, hu, Bool.false_eq_true, if_false]
    · simp only [exec, execRfe, hu, Bool.false_eq_true, if_false]

/-- Settles O31: `State.branch` refuses in a slot (`branch_of_slot`), and JALR compares its
registers first. -/
theorem refusedTransfers : Obligations.RefusedTransfers := by
  intro s rd rs rt imm target
  refine ⟨by simp only [exec, execJalr, if_true], fun taken g h => ⟨fun i hi => ?_, fun hne => ?_,
    fun p hp hu => ?_⟩⟩
  · simp only [List.mem_cons, List.not_mem_nil, or_false] at hi
    rcases hi with rfl | rfl | rfl | rfl | rfl | rfl
    · exact branch_of_slot _ _ h
    · exact branch_of_slot _ _ h
    · exact branch_of_slot _ _ h
    · exact branch_of_slot _ _ h
    · exact branch_of_slot (s := s.writeGpr 31#5 s.linkValue) _ _ h
    · exact branch_of_slot _ _ h
  · exact (exec_jalr hne s).trans (branch_of_slot (s := s.writeGpr rd s.linkValue) _ _ h)
  · have refused {i : Instr} {z : BitVec 2} {sense : Bool} (hz : s.usable z = true)
        (hi : exec i s = s.copBranch z sense imm) : exec i s = .refused .branchInDelaySlot :=
      (hi.trans (copBranch_of_usable sense imm hz)).trans (branch_of_slot _ _ h)
    simp only [List.mem_cons, List.not_mem_nil, or_false] at hp
    rcases hp with rfl | rfl | rfl | rfl | rfl | rfl | rfl | rfl <;> exact refused hu rfl

/-! ### MFC0 and MTC0 (41_system_cp0.md R123 to R127) -/

/-- MFC0 of a register that exists reads it, delays the destination and goes on. -/
theorem mfc0_completes {n : Reg} {c : Cp0Reg} (rt : Reg) (hu : s.usable 0#2 = true)
    (hn : cp0Number n = .reg c) :
    ∃ t, exec (.mfc0 rt n) s = .next t ∧ Written s t rt (s.readCp0 c) ∧ SameBut [rt] s t ∧
      GoesOn s t ∧ t.loadDelay = if rt = 0#5 then none else some rt :=
  ⟨_, exec_mfc0_reg rt hu hn, written_loadAndAdvance s rt _, sameBut_writeAndAdvance s rt _,
    goesOn_of_advance rfl rfl rfl, rfl⟩

/-- Settles O33: the eleven rows of the table of reads are those of `readCp0`. -/
theorem moveFromCp0 : Obligations.MoveFromCp0 := by
  intro s rt hu p hp
  simp only [List.mem_cons, List.not_mem_nil, or_false] at hp
  rcases hp with rfl | rfl | rfl | rfl | rfl | rfl | rfl | rfl | rfl | rfl | rfl
  · exact mfc0_completes (c := .bpc) rt hu rfl
  · exact mfc0_completes (c := .bda) rt hu rfl
  · exact mfc0_completes (c := .tar) rt hu rfl
  · exact mfc0_completes (c := .dcic) rt hu rfl
  · exact mfc0_completes (c := .badA) rt hu rfl
  · exact mfc0_completes (c := .bdam) rt hu rfl
  · exact mfc0_completes (c := .bpcm) rt hu rfl
  · exact mfc0_completes (c := .sr) rt hu rfl
  · exact mfc0_completes (c := .cause) rt hu rfl
  · exact mfc0_completes (c := .epc) rt hu rfl
  · exact mfc0_completes (c := .prid) rt hu rfl

/-- Two words are equal exactly if no bit differs. -/
theorem xor_eq_zero_iff {a b : Word} : a ^^^ b = 0#32 ↔ b = a := by
  rw [BitVec.xor_eq_zero_iff, eq_comm]

/-- The statements' windows after one more instruction are the model's. -/
theorem countedWindows_eq (l : List Cp0Change) : countedWindows l = windowAfterInstr l :=
  (windowAfterInstr_eq l).symm

/-- The window of a write from `old` to `new` stands in front of the windows that are open. -/
theorem openCp0Window_cp0Window (s : State) (r : Cp0Reg) (old new : Word) (pop : Bool) :
    (s.openCp0Window r (old ^^^ new) pop).cp0Window =
      (if new = old ∨ s.cfg.cp0WriteLatency = 0 then []
        else [⟨r, old ^^^ new, pop, s.cfg.cp0WriteLatency⟩]) ++ s.cp0Window := by
  simp only [State.openCp0Window, xor_eq_zero_iff]
  split <;> rfl

/-- What a register reads after MTC0 is what the write left in it. -/
theorem readCp0_moveToCp0 (s : State) (r c : Cp0Reg) (v : Word) :
    (s.moveToCp0 r v).readCp0 c = (s.writeCp0 r v).readCp0 c := by
  cases c <;> rfl

/-- MTC0 opens a window of the bits it changed (70_reset_and_hazards.md R273). -/
theorem moveToCp0_cp0Window (s : State) (r : Cp0Reg) (v : Word) :
    (s.moveToCp0 r v).cp0Window =
      (if (s.moveToCp0 r v).readCp0 r = s.readCp0 r ∨ s.cfg.cp0WriteLatency = 0 then []
        else [⟨r, s.readCp0 r ^^^ (s.moveToCp0 r v).readCp0 r, false,
          s.cfg.cp0WriteLatency⟩]) ++ countedWindows s.cp0Window := by
  rw [readCp0_moveToCp0, State.moveToCp0, openCp0Window_cp0Window, advance_cfg,
    advance_cp0Window, writeCp0_cfg, writeCp0_cp0Window, countedWindows_eq]

/-- MTC0 of a register that exists leaves the write of R127 and goes on. -/
theorem mtc0_completes {n : Reg} {c : Cp0Reg} {rt : Reg} {u : State} (hu : s.usable 0#2 = true)
    (hn : cp0Number n = .reg c) (hw : s.writeCp0 c (s.rtVal rt) = u) :
    ∃ t, exec (.mtc0 rt n) s = .next t ∧ SameBut [] u t ∧ GoesOn s t ∧ t.loadDelay = none := by
  subst hw
  refine ⟨_, exec_mtc0_reg rt hu hn, sameBut_self [] (s.writeCp0 c (s.rtVal rt)),
    goesOn_of_advance ?_ rfl ?_, rfl⟩
  · exact writeCp0_nextPc s c _
  · simp [State.moveToCp0]

/-- Settles O34: the window is that of the bits the write changed (`moveToCp0_cp0Window`), and the
eleven rows of the table of writes are those of `writeCp0`. -/
theorem moveToCp0 : Obligations.MoveToCp0 := by
  refine ⟨fun s t rt n r hn hu ht => ?_, fun s rt hu p hp => ?_⟩
  · obtain rfl : s.moveToCp0 r (s.rtVal rt) = t :=
      Host.Outcome.next.inj ((exec_mtc0_reg rt hu hn).symm.trans ht)
    exact moveToCp0_cp0Window s r _
  · simp only [List.mem_cons, List.not_mem_nil, or_false] at hp
    rcases hp with rfl | rfl | rfl | rfl | rfl | rfl | rfl | rfl | rfl | rfl | rfl
    · exact mtc0_completes (c := .bpc) hu rfl rfl
    · exact mtc0_completes (c := .bda) hu rfl rfl
    · exact mtc0_completes (c := .tar) hu rfl rfl
    · exact mtc0_completes (c := .dcic) hu rfl rfl
    · exact mtc0_completes (c := .badA) hu rfl rfl
    · exact mtc0_completes (c := .bdam) hu rfl rfl
    · exact mtc0_completes (c := .bpcm) hu rfl rfl
    · exact mtc0_completes (c := .sr) hu rfl rfl
    · exact mtc0_completes (c := .cause) hu rfl rfl
    · exact mtc0_completes (c := .epc) hu rfl rfl
    · exact mtc0_completes (c := .prid) hu rfl rfl

theorem cp0Number_of_ge (n : Reg) (h : 16 ≤ n.toNat) : cp0Number n = .unused := by
  have all : ∀ m : Reg, 16 ≤ m.toNat → cp0Number m = .unused := by decide
  exact all n h

theorem cp0Number_absent (n : Reg) (h : n ∈ [0#5, 1#5, 2#5, 4#5, 10#5]) :
    cp0Number n = .absent := by
  have all : ∀ m ∈ [0#5, 1#5, 2#5, 4#5, 10#5], cp0Number m = .absent := by decide
  exact all n h

/-- Settles O35: the class of the number decides, the same for both instructions. -/
theorem otherCp0Numbers : Obligations.OtherCp0Numbers := by
  intro s rt rd hu
  refine ⟨fun hrd => ?_, fun hrd i hi => ?_⟩
  · simp [exec, execMfc0, execMtc0, hu, cp0Number_absent rd hrd]
  · have hnop : exec i s = .next s.advance := by
      simp only [List.mem_cons, List.not_mem_nil, or_false] at hi
      rcases hi with rfl | rfl
      · simp [exec, execMfc0, hu, cp0Number_of_ge rd hrd]
      · simp [exec, execMtc0, hu, cp0Number_of_ge rd hrd]
    exact ⟨_, hnop, sameBut_retire .none (sameBut_self [] s), goesOn_advance s, rfl⟩

/-! ### RFE (41_system_cp0.md R128, 60_exceptions.md R242) -/

theorem exec_rfe (hu : s.usable 0#2 = true) : exec .rfe s = .next s.restoreStatus := by
  simp only [exec, execRfe, hu, if_true]

/-- RFE pops and goes on; only the window it leaves depends on where it stands. -/
theorem restoreStatus_eq (s : State) : s.restoreStatus =
    { s.popStatusStack.advance with cp0Window := s.restoreStatus.cp0Window } := by
  rcases restoreStatus_cases s with h | h
  · rw [h]
  · rw [h]
    rfl

theorem restoreStatus_sr (s : State) : s.restoreStatus.sr = popStatus s.sr := by
  rw [restoreStatus_eq]
  rfl

theorem restoreStatus_of_taken (h : s.delay.taken = true) :
    s.restoreStatus = s.popStatusStack.advance := by
  simp only [State.restoreStatus, h, if_true]

theorem restoreStatus_of_not_taken (h : s.delay.taken = false) : s.restoreStatus =
    s.popStatusStack.advance.openCp0Window .sr (s.sr ^^^ popStatus s.sr) true := by
  simp only [State.restoreStatus, h, Bool.false_eq_true, if_false]

/-- The window RFE leaves (70_reset_and_hazards.md R273): none in the slot of a taken jump. -/
theorem restoreStatus_cp0Window (s : State) : s.restoreStatus.cp0Window =
    (if s.restoreStatus.sr = s.sr ∨ s.cfg.cp0WriteLatency = 0 ∨ s.delay.taken = true then []
      else [⟨.sr, s.sr ^^^ s.restoreStatus.sr, true, s.cfg.cp0WriteLatency⟩]) ++
        countedWindows s.cp0Window := by
  rw [restoreStatus_sr, countedWindows_eq]
  cases h : s.delay.taken with
  | true => simp [restoreStatus_of_taken h]
  | false =>
    rw [restoreStatus_of_not_taken h, openCp0Window_cp0Window]
    exact congrArg (· ++ _) (if_congr (by simp) rfl rfl)

/-- The pop moves the previous and the old pair down by one. -/
theorem popStatus_stack (sr : Word) :
    (popStatus sr).extractLsb' 0 4 = sr.extractLsb' 2 4 := by
  apply BitVec.eq_of_getLsbD_eq
  intro i hi
  rw [BitVec.getLsbD_extractLsb', BitVec.getLsbD_extractLsb', Nat.zero_add, popStatus_bit,
    if_pos hi, Nat.add_comm]

/-- The pop leaves the old pair and the bits above alone. -/
theorem popStatus_rest (sr : Word) : (popStatus sr).extractLsb' 4 28 = sr.extractLsb' 4 28 :=
  extract_eq_of_bits fun i _ => by rw [popStatus_bit, if_neg (by omega)]

/-- Settles O38: RFE is the pop, the normal advance and its window (`restoreStatus_eq`,
`restoreStatus_cp0Window`). -/
theorem restoreFromException : Obligations.RestoreFromException := by
  intro s hu
  have hstate := restoreStatus_eq s
  refine ⟨s.restoreStatus, exec_rfe hu, ?_, ?_, ?_, ?_, ?_, restoreStatus_cp0Window s⟩
  · rw [restoreStatus_sr]
    exact popStatus_stack s.sr
  · rw [restoreStatus_sr]
    exact popStatus_rest s.sr
  · rw [restoreStatus_sr, hstate]
    exact sameBut_self [] s.popStatusStack
  · rw [hstate]
    exact goesOn_of_advance rfl rfl rfl
  · rw [hstate]
    rfl

/-- Settles O40: JR leaves its target in the slot's record, RFE in that slot pops and goes there. -/
theorem returnSequence : Obligations.ReturnSequence := by
  intro s rs hd hu
  refine ⟨s.retire (.slot true (s.rsVal rs)),
    (s.retire (.slot true (s.rsVal rs))).popStatusStack.advance, branch_of_none _ _ hd,
    (branched_retire hd true (s.rsVal rs)).1, rfl, ?_, rfl, rfl, rfl, ?_, ?_⟩
  · rw [exec_rfe (s := s.retire _) hu, restoreStatus_of_taken rfl]
  · exact popStatus_bit s.sr 1
  · exact popStatus_bit s.sr 0

/-! ### Debug conditions (60_exceptions.md R232 to R236) -/

/-- The masked comparison, bit by bit. -/
theorem breakpointMatches_iff (a b mask : Word) : breakpointMatches a b mask = true ↔
    ∀ i, mask.getLsbD i = true → a.getLsbD i = b.getLsbD i := by
  rw [breakpointMatches, beq_iff_eq]
  constructor
  · intro h i hm
    have hbit := congrArg (·.getLsbD i) h
    simpa [hm] using hbit
  · intro h
    apply BitVec.eq_of_getLsbD_eq
    intro i _
    cases hm : mask.getLsbD i with
    | false => simp [hm]
    | true => simp [hm, h i hm]

theorem debugOn_iff (s : State) : s.debugOn = true ↔ s.dcic.getLsbD 23 = true ∧
    ((s.sr.getLsbD 1 = true ∧ s.dcic.getLsbD 30 = true) ∨
      (s.sr.getLsbD 1 = false ∧ s.dcic.getLsbD 29 = true)) := by
  rw [State.debugOn, Bool.and_eq_true, State.kuc]
  cases s.sr.getLsbD 1 <;> simp

/-- The fetch is non-sequential at a branch's target, and at a vector if the parameter says so. -/
theorem nonSequential_iff (s : State) : s.nonSequential = true ↔
    s.arrival = .target ∨ (s.arrival = .vector ∧ s.cfg.traceOnVector = true) := by
  unfold State.nonSequential
  cases s.arrival <;> simp

/-- Settles O48: each condition is the conjunction of its bits with `breakpointMatches_iff`,
`nonSequential_iff` or the kind of the access. -/
theorem debugConditions : Obligations.DebugConditions := by
  intro s a store
  refine ⟨debugOn_iff s, ?pc, ?da, ?trace, rfl⟩
  case pc =>
    rw [State.pcHit, Bool.and_eq_true, Bool.and_eq_true, breakpointMatches_iff, and_assoc]
  case da =>
    rw [State.daHit, Bool.and_eq_true, Bool.and_eq_true, Bool.and_eq_true,
      breakpointMatches_iff, and_assoc, and_assoc]
    cases store <;> simp
  case trace =>
    rw [State.traceHit, Bool.and_eq_true, Bool.and_eq_true, nonSequential_iff, and_assoc]

end Sys2Proof.Machine
end

section
/-! PROOFS. What an instruction leaves of the history its successors are checked against: where
execution goes on, the HI/LO distance, the load delay, the windows of CP0 writes. -/

namespace Sys2Proof.Machine

variable {s t u : State} {i : Instr}

/-! ### An instruction that goes on, entered or completed -/

/-- MFHI and MFLO (43_muldiv.md R168). -/
def Instr.readsHiLo : Instr → Bool
  | .mfhi _ => true
  | .mflo _ => true
  | _ => false

/-- The register that the instruction after this one must not read (70_reset_and_hazards.md
R270). -/
def Instr.delays : Instr → Option Reg
  | .lw rt _ _ => some rt
  | .lh rt _ _ => some rt
  | .lhu rt _ _ => some rt
  | .mfc0 rt rd =>
    match cp0Number rd with
    | .reg _ => some rt
    | .absent => none
    | .unused => none
  | _ => none

/-- MTC0 and RFE, the instructions that open a window (70_reset_and_hazards.md R273). -/
def Instr.writesCp0 : Instr → Bool
  | .mtc0 _ _ => true
  | .rfe => true
  | _ => false

/-- `i` ran in `s` to its end and left `t`: the normal advance (10_state.md R13) and what it counts
or starts of each hazard. -/
structure Completed (i : Instr) (s t : State) : Prop where
  pc : t.pc = s.nextPc
  delay : s.delay ≠ .none → t.delay = .none
  arrival : t.arrival = if s.delay.taken then .target else .sequential
  wrapped : t.wrapped = (!s.delay.taken && decide (2 ^ 32 ≤ s.pc.toNat + 4))
  guard : t.hiloGuard = if Instr.readsHiLo i then 2 else s.hiloGuard - 1
  followers : t.hiloFollowers =
    if Instr.readsHiLo i then s.followersAfterRead else s.hiloFollowers
  loadDelay : t.loadDelay = (Instr.delays i).filter (· != 0#5)
  window : Instr.writesCp0 i = false → t.cp0Window = windowAfterInstr s.cp0Window

/-- `i` left `t` by an exception entry, or completed. -/
def Ends (i : Instr) (s t : State) : Prop := EntersFrom s t ∨ Completed i s t

/-- What the hazards are checked against is the same. -/
structure SameHistory (s u : State) : Prop where
  pc : u.pc = s.pc
  delay : u.delay = s.delay
  guard : u.hiloGuard = s.hiloGuard
  followers : u.hiloFollowers = s.hiloFollowers
  window : u.cp0Window = s.cp0Window

theorem SameHistory.nextPc (h : SameHistory s u) : u.nextPc = s.nextPc := by
  simp only [State.nextPc, h.pc, h.delay]

/-- An instruction that starts no hazard completes by the advance alone. -/
theorem completed_retire {d : Delay} (hreads : Instr.readsHiLo i = false)
    (hdelays : Instr.delays i = none) (h : SameHistory s u)
    (hd : d ≠ .none → s.delay = .none) : Completed i s (u.retire d) where
  pc := h.nextPc
  delay := fun hs => by
    by_contra hne
    exact hs (hd hne)
  arrival := by rw [retire_arrival, h.delay]
  wrapped := by rw [retire_wrapped, h.delay, h.pc]
  guard := by rw [retire_hiloGuard, h.guard, hreads]; rfl
  followers := by rw [retire_hiloFollowers, h.followers, hreads]; rfl
  loadDelay := by rw [hdelays]; rfl
  window := fun _ => by rw [retire_cp0Window, h.window]

theorem completed_advance (hreads : Instr.readsHiLo i = false)
    (hdelays : Instr.delays i = none) (h : SameHistory s u) : Completed i s u.advance :=
  completed_retire hreads hdelays h fun hd => absurd rfl hd

/-- A load, or an MFC0 of a register that exists, starts the load delay. -/
theorem completed_loadAndAdvance {r : Reg} (v : Word) (hreads : Instr.readsHiLo i = false)
    (hdelays : Instr.delays i = some r) (h : SameHistory s u) :
    Completed i s (u.loadAndAdvance r v) where
  pc := h.nextPc
  delay := fun _ => rfl
  arrival := congrArg (fun d => if Delay.taken d then Arrival.target else .sequential) h.delay
  wrapped := by
    show (!u.delay.taken && decide (2 ^ 32 ≤ u.pc.toNat + 4)) = _
    rw [h.delay, h.pc]
  guard := by rw [hreads, ← h.guard]; rfl
  followers := by rw [hreads, ← h.followers]; rfl
  loadDelay := by
    rw [hdelays]
    by_cases hr : r = 0#5 <;> simp [State.loadAndAdvance, hr, Option.filter]
  window := fun _ => congrArg windowAfterInstr h.window

section
variable (hreads : Instr.readsHiLo i = false) (hdelays : Instr.delays i = none)
include hreads hdelays

theorem ends_write {r : Reg} {v : Word}
    (h : (.next (s.writeAndAdvance r v) : Result) = .next t) : Ends i s t := by
  obtain rfl := Host.Outcome.next.inj h
  exact .inr (completed_advance hreads hdelays ⟨rfl, rfl, rfl, rfl, rfl⟩)

theorem ends_trapping {c : Bool} {r : Reg} {v : Word}
    (h : (if c then .next (s.raise .ovf) else .next (s.writeAndAdvance r v)) =
      (.next t : Result)) : Ends i s t := by
  split at h
  · obtain rfl := Host.Outcome.next.inj h
    exact .inl (entersFrom_raise _ (posted_refl s))
  · exact ends_write hreads hdelays h

theorem ends_store {rt rs : Reg} {imm : Half} {w : Width} (h : s.store rt rs imm w = .next t) :
    Ends i s t := by
  rcases store_next h with ⟨-, rfl⟩ | ⟨-, rfl⟩ | ⟨-, -, rfl | rfl⟩
  · exact .inl (entersFrom_raise _ (posted_refl s))
  · exact .inl (entersFrom_raiseDebug (posted_postDebug s _))
  · exact .inr (completed_advance hreads hdelays
      ⟨by simp, by simp, by simp, by simp, by simp⟩)
  · exact .inr (completed_advance hreads hdelays ⟨rfl, rfl, rfl, rfl, rfl⟩)

theorem ends_branch {b : Bool} {g : Word} (hu : SameHistory s u)
    (h : u.branch b g = .next t) : Ends i s t := by
  obtain ⟨hd, rfl⟩ := branch_next h
  exact .inr (completed_retire hreads hdelays hu fun _ => hu.delay.symm.trans hd)

theorem ends_copBranch {z : BitVec 2} {b : Bool} {imm : Half}
    (h : s.copBranch z b imm = .next t) : Ends i s t := by
  rcases copBranch_next h with ⟨-, rfl⟩ | ⟨-, hd, rfl⟩
  · exact .inl (entersFrom_raise _ (posted_refl s))
  · exact .inr (completed_retire hreads hdelays ⟨rfl, rfl, rfl, rfl, rfl⟩ fun _ => hd)

theorem ends_hiLo {hi lo : Word} (h : s.writeHiLo hi lo = .next t) : Ends i s t := by
  obtain ⟨-, rfl⟩ := writeHiLo_next h
  exact .inr (completed_advance hreads hdelays ⟨rfl, rfl, rfl, rfl, rfl⟩)

end

theorem ends_load {rt rs : Reg} {imm : Half} {w : Width} {ext : Half → Word}
    (hreads : Instr.readsHiLo i = false) (hdelays : Instr.delays i = some rt)
    (h : s.load rt rs imm w ext = .next t) : Ends i s t := by
  rcases load_next h with ⟨-, rfl⟩ | ⟨-, rfl | rfl⟩ | ⟨-, -, -, -, rfl⟩
  · exact .inl (entersFrom_raise _ (posted_refl s))
  · exact .inl (entersFrom_raiseDebug (posted_postDebug s _))
  · exact .inl (entersFrom_raise _ (posted_postDebug s _))
  · exact .inr (completed_loadAndAdvance _ hreads hdelays ⟨rfl, rfl, rfl, rfl, rfl⟩)

/-- MFHI and MFLO start the HI/LO distance. -/
theorem ends_moveFromHiLo {r : Reg} {v : Word} (hreads : Instr.readsHiLo i = true)
    (hdelays : Instr.delays i = none) (h : s.moveFromHiLo r v = .next t) : Ends i s t := by
  obtain rfl := Host.Outcome.next.inj h
  exact .inr
    { pc := rfl
      delay := fun _ => rfl
      arrival := rfl
      wrapped := rfl
      guard := by rw [hreads]; rfl
      followers := by rw [hreads]; rfl
      loadDelay := by rw [hdelays]; rfl
      window := fun _ => rfl }

theorem ends_mfc0 {rt rd : Reg} (h : exec (.mfc0 rt rd) s = .next t) :
    Ends (.mfc0 rt rd) s t := by
  simp only [exec, execMfc0] at h
  split at h
  · cases hn : cp0Number rd with
    | absent =>
      obtain rfl : s.raise .ri = t := by simpa [hn] using h
      exact .inl (entersFrom_raise _ (posted_refl s))
    | unused =>
      obtain rfl : s.advance = t := by simpa [hn] using h
      exact .inr (completed_advance rfl (by simp [Instr.delays, hn])
        ⟨rfl, rfl, rfl, rfl, rfl⟩)
    | reg c =>
      obtain rfl : s.loadAndAdvance rt (s.readCp0 c) = t := by simpa [hn] using h
      exact .inr (completed_loadAndAdvance _ rfl (by simp [Instr.delays, hn])
        ⟨rfl, rfl, rfl, rfl, rfl⟩)
  · obtain rfl := Host.Outcome.next.inj h
    exact .inl (entersFrom_raise _ (posted_refl s))

/-- MTC0 advances from the state with the register written; the windows it leaves are O34's. -/
theorem completed_moveToCp0 (rt rd : Reg) (s : State) (c : Cp0Reg) (v : Word) :
    Completed (.mtc0 rt rd) s (s.moveToCp0 c v) where
  pc := writeCp0_nextPc s c v
  delay := fun _ => rfl
  arrival := by simp [State.moveToCp0]
  wrapped := by simp [State.moveToCp0]
  guard := by simp [State.moveToCp0, Instr.readsHiLo]
  followers := by simp [State.moveToCp0, Instr.readsHiLo]
  loadDelay := rfl
  window := fun h => Bool.noConfusion h

theorem ends_mtc0 {rt rd : Reg} (h : exec (.mtc0 rt rd) s = .next t) :
    Ends (.mtc0 rt rd) s t := by
  simp only [exec, execMtc0] at h
  split at h
  · split at h
    · obtain rfl := Host.Outcome.next.inj h
      exact .inl (entersFrom_raise _ (posted_refl s))
    · obtain rfl := Host.Outcome.next.inj h
      exact .inr (completed_advance rfl rfl ⟨rfl, rfl, rfl, rfl, rfl⟩)
    · obtain rfl := Host.Outcome.next.inj h
      exact .inr (completed_moveToCp0 rt rd s _ _)
  · obtain rfl := Host.Outcome.next.inj h
    exact .inl (entersFrom_raise _ (posted_refl s))

/-- RFE advances from the popped state; the windows it leaves are O38's. -/
theorem completed_restoreStatus (s : State) : Completed .rfe s s.restoreStatus := by
  rw [restoreStatus_eq]
  exact
    { pc := rfl
      delay := fun _ => rfl
      arrival := rfl
      wrapped := rfl
      guard := rfl
      followers := rfl
      loadDelay := rfl
      window := fun h => Bool.noConfusion h }

theorem ends_rfe (h : exec .rfe s = .next t) : Ends .rfe s t := by
  simp only [exec, execRfe] at h
  split at h
  · obtain rfl := Host.Outcome.next.inj h
    exact .inr (completed_restoreStatus s)
  · obtain rfl := Host.Outcome.next.inj h
    exact .inl (entersFrom_raise _ (posted_refl s))

/-- Every instruction that goes on enters an exception or completes. -/
theorem exec_ends (h : exec i s = .next t) : Ends i s t := by
  have self : SameHistory s s := ⟨rfl, rfl, rfl, rfl, rfl⟩
  cases i with
  | sll | srl | sllv | addu | subu | and | or | addiu | andi | ori | lui =>
    exact ends_write rfl rfl h
  | add | sub | addi => exact ends_trapping rfl rfl h
  | mfhi | mflo => exact ends_moveFromHiLo rfl rfl h
  | mthi | mtlo | mult | multu => exact ends_hiLo rfl rfl h
  | div =>
    simp only [exec, execDiv] at h
    split at h <;> exact ends_hiLo rfl rfl h
  | divu =>
    simp only [exec, execDivu] at h
    split at h <;> exact ends_hiLo rfl rfl h
  | lh | lw | lhu => exact ends_load rfl rfl h
  | sh | sw => exact ends_store rfl rfl h
  | jr | bgez | j | beq | bne => exact ends_branch rfl rfl self h
  | jal => exact ends_branch (u := s.writeGpr _ _) rfl rfl ⟨rfl, rfl, rfl, rfl, rfl⟩ h
  | jalr =>
    simp only [exec, execJalr] at h
    split at h
    · exact absurd h (by simp)
    · exact ends_branch (u := s.writeGpr _ _) rfl rfl ⟨rfl, rfl, rfl, rfl, rfl⟩ h
  | bc0f | bc0t | bc1f | bc1t | bc2f | bc2t | bc3f | bc3t => exact ends_copBranch rfl rfl h
  | syscall | brk =>
    obtain rfl := Host.Outcome.next.inj h
    exact .inl (entersFrom_raise _ (posted_refl s))
  | mfc0 => exact ends_mfc0 h
  | mtc0 => exact ends_mtc0 h
  | rfe => exact ends_rfe h

/-! ### The arrival tells the two apart (60_exceptions.md R235) -/

theorem EntersFrom.arrival (h : EntersFrom s t) : t.arrival = .vector := by
  obtain ⟨p, e, v, -, -, rfl⟩ := h
  rfl

theorem Completed.arrival_ne (h : Completed i s t) : t.arrival ≠ .vector := by
  rw [h.arrival]
  split <;> decide

theorem entersFrom_of_vector (h : exec i s = .next t) (hv : t.arrival = .vector) :
    EntersFrom s t := by
  rcases exec_ends h with he | hc
  · exact he
  · exact absurd hv hc.arrival_ne

theorem completed_of_not_vector (h : exec i s = .next t) (hv : t.arrival ≠ .vector) :
    Completed i s t := by
  rcases exec_ends h with he | hc
  · exact absurd he.arrival hv
  · exact hc

/-! ### The HI/LO distance (43_muldiv.md R168) -/

theorem readsHiLo_iff (i : Instr) :
    Instr.readsHiLo i = true ↔ ∃ rd, i = .mfhi rd ∨ i = .mflo rd := by
  cases i <;> simp [Instr.readsHiLo]

/-- Within the distance each of the six writers is refused. -/
theorem writeHiLo_of_not_writable (h : ¬ HiLoWritable s) (hi lo : Word) :
    s.writeHiLo hi lo = .refused .hiloReorganization := by
  unfold State.writeHiLo
  rw [if_neg (fun hw => h (mayWriteHiLo_iff.mp hw))]

theorem exec_writer_refused (h : ¬ HiLoWritable s) (rs rt : Reg) : ∀ i ∈ [Instr.mult rs rt,
    .multu rs rt, .div rs rt, .divu rs rt, .mthi rs, .mtlo rs],
    exec i s = .refused .hiloReorganization := by
  have refused := writeHiLo_of_not_writable h
  intro i hi
  simp only [List.mem_cons, List.not_mem_nil, or_false] at hi
  rcases hi with rfl | rfl | rfl | rfl | rfl | rfl
  · exact refused _ _
  · exact refused _ _
  · simp only [exec, execDiv, refused, ite_self]
  · simp only [exec, execDivu, refused, ite_self]
  · exact refused _ _
  · exact refused _ _

/-- Settles O18: the writers test the distance first, and an instruction that completes counts it or
starts it (`Completed`), one that enters keeps it. -/
theorem hiLoDistance : Obligations.HiLoDistance := by
  refine ⟨fun s rs rt h => exec_writer_refused h rs rt, fun i s t ht => ⟨fun hv => ?_,
    fun hv => ⟨?_, fun x => ?_⟩⟩⟩
  · obtain ⟨p, e, v, ⟨d, n, rfl⟩, -, rfl⟩ := entersFrom_of_vector ht hv
    exact ⟨rfl, rfl⟩
  · rw [(completed_of_not_vector ht hv).guard]
    cases i <;> rfl
  · rw [(completed_of_not_vector ht hv).followers, ← readsHiLo_iff]
    cases Instr.readsHiLo i with
    | true => simp [mem_followersAfterRead]
    | false => simp

/-- A remembered address stays remembered by every instruction. -/
theorem effect_followers (h : Effect s t) {x : Nat} (hx : x ∈ s.hiloFollowers) :
    x ∈ t.hiloFollowers := by
  cases h with
  | moveFromHiLo r v => exact mem_followersAfterRead.mpr (.inl hx)
  | failStore ea w ha => simpa using hx
  | writeCp0 r v hu => simpa [State.moveToCp0] using hx
  | popStatus hu =>
    rw [restoreStatus_eq]
    exact hx
  | entry | accessEntry | accessDebug | write | load | readCp0 | store | branch | link | hiLo
  | nop => exact hx

/-- And by every step, reset events among them. -/
theorem step_followers (h : step s = .next t) {x : Nat} (hx : x ∈ s.hiloFollowers) :
    x ∈ t.hiloFollowers := by
  rcases step_next h with ⟨ev, -, rfl⟩ | ⟨-, u, hu, rfl⟩
  · rwa [nextEnv_hiloFollowers, resetBy_hiloFollowers]
  · rw [nextEnv_hiloFollowers]
    rcases runBoundary_cases hu with ⟨p, e, v, ⟨d, n, rfl⟩, -, rfl⟩ | ⟨-, he⟩
    · exact hx
    · exact effect_followers he hx

theorem runs_followers {n : Nat} (h : Runs n s t) {x : Nat} (hx : x ∈ s.hiloFollowers) :
    x ∈ t.hiloFollowers := by
  induction n generalizing s with
  | zero =>
    obtain rfl : t = s := h
    exact hx
  | succ n ih =>
    obtain ⟨u, hstep, hruns⟩ := h
    exact ih hruns (step_followers hstep hx)

/-- Settles O19: MFHI and MFLO remember the two places after them, every step keeps them
(`runs_followers`), and there each writer is refused (O18). -/
theorem hiLoDistanceOverRuns : Obligations.HiLoDistanceOverRuns := by
  intro n i s t u rd rs rt hi ht hruns hpc
  have hfollowers : t.hiloFollowers = s.followersAfterRead := by
    simp only [List.mem_cons, List.not_mem_nil, or_false] at hi
    rcases hi with rfl | rfl <;>
      exact (congrArg State.hiloFollowers (Host.Outcome.next.inj ht)).symm
  have hplace : u.pc.toNat ∈ t.nextEnv.hiloFollowers := by
    rw [nextEnv_hiloFollowers, hfollowers, mem_followersAfterRead]
    exact .inr (hpc.imp (congrArg _) (congrArg _))
  have hrefused : ¬ HiLoWritable u := fun hw => hw.2 (runs_followers hruns hplace)
  exact exec_writer_refused hrefused rs rt

/-! ### The load delay (70_reset_and_hazards.md R270) -/

theorem delays_eq_some {r : Reg} (h : Instr.delays i = some r) :
    (∃ rs imm, i = .lw r rs imm) ∨ (∃ rs imm, i = .lh r rs imm) ∨
      (∃ rs imm, i = .lhu r rs imm) ∨ ∃ rd, i = .mfc0 r rd := by
  unfold Instr.delays at h
  split at h
  · cases h; exact .inl ⟨_, _, rfl⟩
  · cases h; exact .inr (.inl ⟨_, _, rfl⟩)
  · cases h; exact .inr (.inr (.inl ⟨_, _, rfl⟩))
  · split at h <;> cases h
    exact .inr (.inr (.inr ⟨_, rfl⟩))
  · cases h

/-- Settles O25: a completed instruction delays the register that `Instr.delays` names, an entry
none, and an operand is free exactly if it is delayed. -/
theorem loadDelay : Obligations.LoadDelay := by
  refine ⟨fun s t rt rs imm i hi ht hv => ?_, fun i s t ht hne => ?_, fun s r => ⟨?_, ?_⟩⟩
  · have hdelays : Instr.delays i = some rt := by
      simp only [List.map_cons, List.map_nil, List.mem_append, List.mem_cons, List.not_mem_nil,
        or_false] at hi
      rcases hi with (rfl | rfl | rfl) |
        (rfl | rfl | rfl | rfl | rfl | rfl | rfl | rfl | rfl | rfl | rfl) <;> rfl
    rw [(completed_of_not_vector ht hv).loadDelay, hdelays]
    by_cases hr : rt = 0#5 <;> simp [hr, Option.filter]
  · rcases exec_ends ht with ⟨p, e, v, ⟨d, n, rfl⟩, -, rfl⟩ | hc
    · exact absurd rfl hne
    · rw [hc.loadDelay] at hne ⊢
      obtain ⟨r, hr⟩ := Option.ne_none_iff_exists'.mp hne
      obtain ⟨hdelays, hr0⟩ := Option.filter_eq_some_iff.mp hr
      exact ⟨r, by simpa using hr0, hr, delays_eq_some hdelays⟩
  · intro h
    simp [State.rsVal, State.rtVal, State.operand, h]
  · intro h
    exact ⟨operand_of_no_delay s _ r h, operand_of_no_delay s _ r h⟩

/-! ### Delay slots and the top of the address space (10_state.md R13) -/

/-- Settles O30: an entry in a slot restarts at the branch and records its decision, a completed
instruction goes where `nextPc` says. -/
theorem delaySlots : Obligations.DelaySlots := by
  intro i s t taken g hslot ht
  rcases exec_ends ht with ⟨p, e, v, ⟨d, n, rfl⟩, hv, rfl⟩ | hc
  · refine ⟨rfl, .inl ⟨rfl, ?_, ?_, ?_, fun htaken => ?_, hv⟩⟩
    · exact (restartPc_eq s).trans (if_neg (by simp [hslot]))
    · exact (causeAfter_bd s e).trans (by simp [hslot])
    · exact causeAfter_bt_of_slot (s := s) e hslot
    · exact tarAfter_of_taken (s := s) (htaken ▸ hslot)
  · refine ⟨hc.delay (by simp [hslot]), .inr ⟨?_, ?_⟩⟩
    · rw [hc.arrival, hslot]
      rfl
    · rw [hc.pc, State.nextPc, hslot]
      cases taken <;> rfl

theorem not_taken_iff (d : Delay) : d.taken = false ↔ ∀ g, d ≠ .slot true g := by
  cases d with
  | none => simp [Delay.taken]
  | slot taken g => cases taken <;> simp [Delay.taken]

/-- The last word of the address space is the only aligned one whose successor passes the top. -/
theorem passes_top_iff {a : Word} (h : a.toNat % 4 = 0) :
    2 ^ 32 ≤ a.toNat + 4 ↔ a = 0xFFFFFFFC#32 := by
  have ha := a.isLt
  rw [← BitVec.toNat_inj]
  simp only [BitVec.toNat_ofNat, Nat.reducePow, Nat.reduceMod] at ha ⊢
  omega

/-- Settles O51: the mark is the one a completed instruction leaves, and past the checks of the CPU
the platform's answer decides (`fetch_past_checks`). -/
theorem fetchStops : Obligations.FetchStops := by
  refine ⟨fun i s t ht hv haligned => ?_, fun s a n => ?_, fun s hreset hparity =>
    ⟨fun hwrapped => ?_, fun hwrapped hstore hint hs ha hpass => ?_⟩⟩
  · rw [(completed_of_not_vector ht hv).wrapped, Bool.and_eq_true, Bool.not_eq_true',
      decide_eq_true_iff, not_taken_iff, passes_top_iff haligned, and_comm]
  · simp [State.storedIn]
  · refine (step_of_fetchPhase_stop (r := .refused .fetchPastTop) hreset hparity ?_).trans rfl
    simp [State.fetchPhase, hwrapped]
  · have hq : Quiet s := ⟨hreset, hparity, hwrapped, hstore, hint⟩
    have hfetch := fetch_past_checks ha hpass
    have stops {r : Result} (h : s.fetch = .stop r) : step s = settleEnv r :=
      step_of_settled_fetch_stop hq hs h
    refine ⟨fun hanswers hberr => ?_, fun hanswers hberr => ?_, fun hanswers hberr => ?_,
      fun hanswers hberr hstored => ?_⟩
    · exact stops (r := .next _) (by simp [hfetch, hanswers, hberr])
    · exact stops (r := .fault _) (by simp [hfetch, hanswers, hberr])
    · exact stops (r := .next _) (by simp [hfetch, hanswers, hberr])
    · exact stops (r := .refused _) (by simp [hfetch, hanswers, hberr, hstored])

end Sys2Proof.Machine
end

section
/-! PROOFS. What depends on a CP0 write whose window is open (70_reset_and_hazards.md R272 to R274,
log entry 10): where a step is refused for it, and on which bits each instruction depends. -/

namespace Sys2Proof.Machine

variable {s t : State}

/-! ### Where a step is refused -/

theorem step_of_unsettled_fetch (hq : Quiet s) (h : s.unsettled State.fetchOutlook = true) :
    step s = .refused .cp0WriteWindow :=
  step_of_fetch_stop (r := .refused _) hq (by simp only [State.checkedFetch, h, if_true])

/-- An entry that depends on an open window is refused. -/
theorem checkEntry_of_unsettled (h : s.entryUnsettled = true) (hv : t.arrival = .vector) :
    s.checkEntry (.next t) = .refused .cp0WriteWindow := by
  simp [State.checkEntry, h, hv]

theorem step_of_unsettled_fetch_entry (hq : Quiet s)
    (hfetch : s.unsettled State.fetchOutlook = false) (hentry : s.entryUnsettled = true)
    (h : s.fetch = .stop (.next t)) (hv : t.arrival = .vector) :
    step s = .refused .cp0WriteWindow := by
  refine step_of_fetch_stop (r := .refused _) hq ?_
  simp [State.checkedFetch, hfetch, h, checkEntry_of_unsettled hentry hv]

/-- The fetch ends in an exception: AdEL, Debug, or IBE in one of its two ways. -/
theorem fetch_enters (h : s.addressError s.pc 4 = true ∨ (s.addressError s.pc 4 = false ∧
    (((s.traceHit = true ∨ s.pcHit s.pc = true) ∧ s.debugTraps = true) ∨
      (((s.traceHit = false ∧ s.pcHit s.pc = false) ∨ s.debugTraps = false) ∧
        ((platformAnswers s.cfg s.pc.toNat 4 .fetch = false ∧
            berrPromised s.cfg s.pc.toNat 4 .fetch = true) ∨
          (platformAnswers s.cfg s.pc.toNat 4 .fetch = true ∧ s.env.berrFetch = true)))))) :
    ∃ t, s.fetch = .stop (.next t) ∧ t.arrival = .vector := by
  rcases h with ha | ⟨ha, ⟨hhit, htraps⟩ | ⟨hpass, ⟨hanswers, hberr⟩ | ⟨hanswers, hberr⟩⟩⟩
  · exact ⟨_, fetch_of_addressError ha, rfl⟩
  · exact ⟨_, fetch_of_trap ha hhit htraps, rfl⟩
  · exact ⟨s.fetchPosted.raise .ibe, by simp [fetch_past_checks ha hpass, hanswers, hberr], rfl⟩
  · exact ⟨s.fetchPosted.raise .ibe, by simp [fetch_past_checks ha hpass, hanswers, hberr], rfl⟩

theorem runWord_of_unsettled {w : Word} (h : s.wordUnsettled w = true) :
    runWord s w = .refused .cp0WriteWindow := by
  simp only [runWord, h, if_true]

theorem runWord_of_unsettled_entry {w : Word} (hw : s.wordUnsettled w = false)
    (hentry : s.entryUnsettled = true) (h : meaning s w = .next t) (hv : t.arrival = .vector) :
    runWord s w = .refused .cp0WriteWindow := by
  simp [runWord, hw, h, checkEntry_of_unsettled hentry hv]

/-! ### One open window -/

/-- What depends on the only open window is what inverting its bits changes. -/
theorem unsettled_of_one {α : Type} [DecidableEq α] {c : Cp0Change} (h : s.cp0Window = [c])
    (f : State → α) :
    s.unsettled f = decide (f (s.toggleCp0 c.reg c.changed) ≠ f s) := by
  simp [State.unsettled, h, State.olderViews]

section
variable {m : Word} {p : Bool} {n : Nat}

theorem stackUnsettled_of_one (h : s.cp0Window = [⟨.sr, m, p, n⟩]) (hp : p = false)
    {bits : Word} (hm : m &&& bits ≠ 0#32) : s.stackUnsettled bits = true := by
  simp [State.stackUnsettled, h, hp, hm]

theorem toggle_sr_bit (s : State) (m : Word) (i : Nat) :
    (s.toggleCp0 .sr m).sr.getLsbD i = (s.sr.getLsbD i ^^ m.getLsbD i) :=
  BitVec.getLsbD_xor

/-- A coprocessor other than 0 is usable by its Cu bit alone (41_system_cp0.md R120). -/
theorem usable_eq_cu {z : BitVec 2} (hz : z ≠ 0#2) (s : State) : s.usable z = s.cu z := by
  simp [State.usable, hz]

/-- The usability of coprocessors 1 to 3 depends exactly on a change of their Cu bit. -/
theorem unsettled_usable (h : s.cp0Window = [⟨.sr, m, p, n⟩]) {z : BitVec 2} (hz : z ≠ 0#2) :
    (s.unsettled fun v => v.usable z) = m.getLsbD (28 + z.toNat) := by
  rw [unsettled_of_one h, usable_eq_cu hz, usable_eq_cu hz, State.cu, State.cu, toggle_sr_bit]
  cases s.sr.getLsbD (28 + z.toNat) <;> cases m.getLsbD (28 + z.toNat) <;> rfl

/-- After a change of KUc a reference with bit 31 set is an address error in one of the two modes
only. -/
theorem addressError_toggle_ne {a : Word} {k : Nat} (hm : m.getLsbD 1 = true)
    (ha : a.getLsbD 31 = true) (haligned : a.toNat % k = 0) :
    (s.toggleCp0 .sr m).addressError a k ≠ s.addressError a k := by
  have hmsb : a.msb = true := (BitVec.msb_eq_getLsbD_last a).trans ha
  have hkuc (u : State) : u.addressError a k = u.sr.getLsbD 1 := by
    simp [State.addressError, haligned, hmsb, State.kuc]
  rw [hkuc, hkuc, toggle_sr_bit, hm]
  cases s.sr.getLsbD 1 <;> decide

/-- The outlook on a data access is none exactly at an address error. -/
theorem accessOutlook_isNone (s : State) (ea : Word) (w : Width) (store : Bool) :
    (s.accessOutlook ea w store).isNone = s.addressError ea w.bytes := by
  unfold State.accessOutlook
  cases s.addressError ea w.bytes <;> rfl

theorem fetchOutlook_isNone (s : State) :
    s.fetchOutlook.isNone = s.addressError s.pc 4 := by
  unfold State.fetchOutlook
  cases s.addressError s.pc 4 <;> rfl

theorem unsettled_access (h : s.cp0Window = [⟨.sr, m, p, n⟩]) (hm : m.getLsbD 1 = true)
    {ea : Word} (hea : ea.getLsbD 31 = true) {w : Width} (haligned : ea.toNat % w.bytes = 0)
    (store : Bool) : (s.unsettled fun v => v.accessOutlook ea w store) = true := by
  rw [unsettled_of_one h, decide_eq_true_iff]
  intro heq
  have hnone := congrArg Option.isNone heq
  rw [accessOutlook_isNone, accessOutlook_isNone] at hnone
  exact addressError_toggle_ne hm hea haligned hnone

theorem unsettled_fetch (h : s.cp0Window = [⟨.sr, m, p, n⟩]) (hm : m.getLsbD 1 = true)
    (hpc : s.pc.getLsbD 31 = true) (haligned : s.pc.toNat % 4 = 0) :
    s.unsettled State.fetchOutlook = true := by
  rw [unsettled_of_one h, decide_eq_true_iff]
  intro heq
  have hnone := congrArg Option.isNone heq
  rw [fetchOutlook_isNone, fetchOutlook_isNone] at hnone
  exact addressError_toggle_ne hm hpc haligned hnone

/-- What MFC0 of a register reads where CP0 is usable. -/
theorem readOutlook_of_usable {r : Reg} {c : Cp0Reg} (hu : s.usable 0#2 = true)
    (hr : cp0Number r = .reg c) : s.readOutlook r = some (s.readCp0 c) := by
  simp [State.readOutlook, hu, hr]

theorem usable_of_kernel (h : s.sr.getLsbD 1 = false) : s.usable 0#2 = true :=
  (usable_iff s 0#2).mpr (.inr ⟨rfl, h⟩)

/-- Inverting bits changes a word exactly if there are any. -/
theorem xor_eq_self_iff (a m : Word) : a ^^^ m = a ↔ m = 0#32 := by
  rw [← BitVec.xor_right_inj (x := m) a, BitVec.xor_zero]

/-- Inverting bits shows through a mask exactly if one of them is in it. -/
theorem xor_and_ne_iff (a m d : Word) : (a ^^^ m) &&& d ≠ a &&& d ↔ m &&& d ≠ 0#32 := by
  have hmask : (a ^^^ m) &&& d = (a &&& d) ^^^ (m &&& d) := by
    apply BitVec.eq_of_getLsbD_eq
    intro i _
    simp [Bool.and_xor_distrib_right]
  rw [hmask, Ne, Ne, xor_eq_self_iff]

/-- MFC0 of SR in kernel mode depends exactly on a change of a bit that exists. -/
theorem unsettled_read_sr (h : s.cp0Window = [⟨.sr, m, p, n⟩]) (hk : s.sr.getLsbD 1 = false)
    (hm : m.getLsbD 1 = false) : (s.unsettled fun v => v.readOutlook 12#5) = true ↔
      m &&& 0xF055FF3F#32 ≠ 0#32 := by
  have hk' : (s.toggleCp0 .sr m).sr.getLsbD 1 = false := by rw [toggle_sr_bit, hk, hm]; rfl
  rw [unsettled_of_one h, decide_eq_true_iff,
    readOutlook_of_usable (c := .sr) (usable_of_kernel hk) rfl,
    readOutlook_of_usable (c := .sr) (usable_of_kernel hk') rfl, Ne, Option.some_inj]
  exact xor_and_ne_iff s.sr m srDefined

theorem entryUnsettled_of_bev (h : s.cp0Window = [⟨.sr, m, p, n⟩])
    (hm : m.getLsbD 22 = true) : s.entryUnsettled = true := by
  have hbev : s.unsettled State.bev = true := by
    rw [unsettled_of_one h, decide_eq_true_iff, State.bev, State.bev, toggle_sr_bit, hm]
    cases s.sr.getLsbD 22 <;> decide
  rw [State.entryUnsettled, hbev, Bool.true_or]

theorem entryUnsettled_of_stack (h : s.cp0Window = [⟨.sr, m, p, n⟩]) (hp : p = false)
    (hm : m &&& 0x0F#32 ≠ 0#32) : s.entryUnsettled = true := by
  rw [State.entryUnsettled, stackUnsettled_of_one h hp hm, Bool.or_true]

/-- MFC0 of a register that inverting its bits changes, and whose window does not bear on the
usability of CP0. -/
theorem unsettled_read {r : Reg} {c : Cp0Reg} (h : s.cp0Window = [⟨c, m, p, n⟩])
    (hr : cp0Number r = .reg c) (hu : s.usable 0#2 = true)
    (hu' : (s.toggleCp0 c m).usable 0#2 = true)
    (hne : (s.toggleCp0 c m).readCp0 c ≠ s.readCp0 c) :
    (s.unsettled fun v => v.readOutlook r) = true := by
  rw [unsettled_of_one h, decide_eq_true_iff, readOutlook_of_usable hu hr,
    readOutlook_of_usable hu' hr, Ne, Option.some_inj]
  exact hne

end

/-! ### What depends on no window -/

/-- The fetch looks at SR, DCIC, BPC and BPCM only. -/
theorem fetchOutlook_toggle {r : Cp0Reg} (hr : r ∉ [Cp0Reg.sr, .dcic, .bpc, .bpcm]) (u : State)
    (b : Word) : (u.toggleCp0 r b).fetchOutlook = u.fetchOutlook := by
  cases r with
  | sr | dcic | bpc | bpcm => simp at hr
  | bda | tar | badA | bdam | cause | epc | prid => rfl

/-- An entry looks at SR only. -/
theorem bev_toggle {r : Cp0Reg} (hr : r ≠ .sr) (u : State) (b : Word) :
    (u.toggleCp0 r b).bev = u.bev := by
  cases r with
  | sr => exact absurd rfl hr
  | bpc | bda | tar | dcic | badA | bdam | bpcm | cause | epc | prid => rfl

theorem entryUnsettled_of_no_sr (h : ∀ c ∈ s.cp0Window, c.reg ≠ .sr) :
    s.entryUnsettled = false := by
  have hbev : s.unsettled State.bev = false :=
    unsettled_of_kept fun c hc u => bev_toggle (h c hc) u _
  have hstack : s.stackUnsettled 0x0F#32 = false := by
    rw [State.stackUnsettled, List.any_eq_false]
    intro c hc
    simp [h c hc]
  rw [State.entryUnsettled, hbev, hstack]
  rfl

/-- A data access looks at SR, DCIC, BDA and BDAM only. -/
theorem accessOutlook_toggle {r : Cp0Reg} (hr : r ∉ [Cp0Reg.sr, .dcic, .bda, .bdam])
    (ea : Word) (w : Width) (store : Bool) (u : State) (b : Word) :
    (u.toggleCp0 r b).accessOutlook ea w store = u.accessOutlook ea w store := by
  cases r with
  | sr | dcic | bda | bdam => simp at hr
  | bpc | tar | badA | bpcm | cause | epc | prid => rfl

theorem unsettled_access_of_others (h : ∀ c ∈ s.cp0Window, c.reg ∉ [Cp0Reg.sr, .dcic, .bda, .bdam])
    (ea : Word) (w : Width) (store : Bool) :
    (s.unsettled fun v => v.accessOutlook ea w store) = false :=
  unsettled_of_kept fun c hc u => accessOutlook_toggle (h c hc) ea w store u _

/-- Only loads, stores and the instructions of the coprocessors depend on a window. -/
theorem unsettled_instr_kinds {i : Instr} (h : s.instrUnsettled i = true) :
    (∃ (rt rs : Reg) (imm : Half), i ∈ [Instr.lw rt rs imm, .lh rt rs imm, .lhu rt rs imm,
        .sw rt rs imm, .sh rt rs imm]) ∨
      (∃ rt rd : Reg, i ∈ [Instr.mfc0 rt rd, .mtc0 rt rd, .rfe]) ∨
      ∃ imm : Half, i ∈ [Instr.bc0f imm, .bc0t imm, .bc1f imm, .bc1t imm, .bc2f imm, .bc2t imm,
        .bc3f imm, .bc3t imm] := by
  cases i with
  | lw rt rs imm | lh rt rs imm | lhu rt rs imm | sw rt rs imm | sh rt rs imm =>
    exact .inl ⟨rt, rs, imm, by simp⟩
  | mfc0 rt rd | mtc0 rt rd => exact .inr (.inl ⟨rt, rd, by simp⟩)
  | rfe => exact .inr (.inl ⟨0, 0, by simp⟩)
  | bc0f imm | bc0t imm | bc1f imm | bc1t imm | bc2f imm | bc2t imm | bc3f imm | bc3t imm =>
    exact .inr (.inr ⟨imm, by simp⟩)
  | sll | srl | sllv | add | addu | sub | subu | and | or | addi | addiu | andi | ori | lui
  | mfhi | mthi | mflo | mtlo | mult | multu | div | divu | jr | jalr | bgez | j | jal | beq
  | bne | syscall | brk => exact Bool.noConfusion h

/-! ### The statement -/

/-- MTC0 and RFE apart, an instruction that completes counts for every open window. -/
theorem counted_of_completed {i : Instr} (hmtc0 : ∀ rt rd, i ≠ .mtc0 rt rd) (hrfe : i ≠ .rfe)
    (h : Completed i s t) : t.cp0Window = countedWindows s.cp0Window := by
  have hwrites : Instr.writesCp0 i = false := by
    unfold Instr.writesCp0
    split
    · exact absurd rfl (hmtc0 _ _)
    · exact absurd rfl hrfe
    · rfl
  rw [h.window hwrites, countedWindows_eq]

/-- A step whose fetched word, or its entry, depends on an open window is refused. -/
theorem step_of_unsettled_word (hq : Quiet s) (hfetch : s.unsettled State.fetchOutlook = false)
    (hg : FetchGoes s) {w : Word} (hw : w = s.mem.readWord s.cfg.bigEndian s.pc.toNat) :
    (s.fetchPosted.wordUnsettled w = true → step s = .refused .cp0WriteWindow) ∧
    (s.fetchPosted.wordUnsettled w = false → s.fetchPosted.entryUnsettled = true →
      ∀ t, meaning s.fetchPosted w = .next t → t.arrival = .vector →
        step s = .refused .cp0WriteWindow) := by
  subst hw
  rw [step_of_fetched hq hfetch hg]
  refine ⟨fun hw => ?_, fun hw hentry t ht hv => ?_⟩
  · rw [runWord_of_unsettled hw]
    rfl
  · rw [runWord_of_unsettled_entry hw hentry ht hv]
    rfl

/-- With one open window of SR: coprocessors 1 to 3 depend on their Cu bit, a data access with bit
31 set on KUc. -/
theorem depends_on_sr {m : Word} {p : Bool} {n : Nat} (h : s.cp0Window = [⟨.sr, m, p, n⟩]) :
    (∀ imm : Half, ∀ q ∈ [(Instr.bc1f imm, 29), (.bc1t imm, 29), (.bc2f imm, 30),
      (.bc2t imm, 30), (.bc3f imm, 31), (.bc3t imm, 31)],
      s.instrUnsettled q.1 = m.getLsbD q.2) ∧
    (∀ (rt rs : Reg) (imm : Half), m.getLsbD 1 = true →
      (s.effectiveAddress rs imm).getLsbD 31 = true →
      ∀ q ∈ [(Instr.lw rt rs imm, 4), (.sw rt rs imm, 4), (.lh rt rs imm, 2),
        (.lhu rt rs imm, 2), (.sh rt rs imm, 2)],
        (s.effectiveAddress rs imm).toNat % q.2 = 0 → s.instrUnsettled q.1 = true) := by
  refine ⟨fun imm q hq => ?_, fun rt rs imm hm hea q hq haligned => ?_⟩
  · simp only [List.mem_cons, List.not_mem_nil, or_false] at hq
    rcases hq with rfl | rfl | rfl | rfl | rfl | rfl
    · exact unsettled_usable (z := 1#2) h (by decide)
    · exact unsettled_usable (z := 1#2) h (by decide)
    · exact unsettled_usable (z := 2#2) h (by decide)
    · exact unsettled_usable (z := 2#2) h (by decide)
    · exact unsettled_usable (z := 3#2) h (by decide)
    · exact unsettled_usable (z := 3#2) h (by decide)
  · simp only [List.mem_cons, List.not_mem_nil, or_false] at hq
    rcases hq with rfl | rfl | rfl | rfl | rfl
    · exact unsettled_access (w := .word) h hm hea haligned false
    · exact unsettled_access (w := .word) h hm hea haligned true
    · exact unsettled_access (w := .half) h hm hea haligned false
    · exact unsettled_access (w := .half) h hm hea haligned false
    · exact unsettled_access (w := .half) h hm hea haligned true

/-- MFC0 of a breakpoint register shows every bit of its window. -/
theorem depends_on_breakpoint {m : Word} {n : Nat} (rt : Reg) (hu : s.usable 0#2 = true)
    (hm : m ≠ 0#32) : ∀ q ∈ [(3#5, Cp0Reg.bpc), (5#5, .bda), (9#5, .bdam), (11#5, .bpcm)],
      s.cp0Window = [⟨q.2, m, false, n⟩] → s.instrUnsettled (.mfc0 rt q.1) = true := by
  have hne (a : Word) : a ^^^ m ≠ a := fun h => hm ((xor_eq_self_iff a m).mp h)
  intro q hq h
  simp only [List.mem_cons, List.not_mem_nil, or_false] at hq
  rcases hq with rfl | rfl | rfl | rfl
  · exact unsettled_read h rfl hu hu (hne s.bpc)
  · exact unsettled_read h rfl hu hu (hne s.bda)
  · exact unsettled_read h rfl hu hu (hne s.bdam)
  · exact unsettled_read h rfl hu hu (hne s.bpcm)

theorem settled_of_no_window (h : s.cp0Window = []) : FetchSettled s ∧
    s.fetchPosted.entryUnsettled = false ∧ ∀ w, WordSettled s w :=
  ⟨⟨unsettled_of_none h _, entryUnsettled_of_none h⟩, entryUnsettled_of_none (s := s.fetchPosted) h,
    fun w => ⟨unsettled_of_none h _, wordUnsettled_of_none (s := s.fetchPosted) h w⟩⟩

theorem fetchSettled_of_others
    (h : ∀ c ∈ s.cp0Window, c.reg ∉ [Cp0Reg.sr, .dcic, .bpc, .bpcm]) : FetchSettled s :=
  ⟨unsettled_of_kept fun c hc u => fetchOutlook_toggle (h c hc) u _,
    entryUnsettled_of_no_sr fun c hc hsr => h c hc (by simp [hsr])⟩

/-- Settles O39, clause by clause: the refusals of the step, the count, one window of SR, one of a
breakpoint register, no window, and the registers that each kind of dependence looks at. -/
theorem cp0WriteWindow : Obligations.Cp0WriteWindow := by
  refine ⟨fun s hq => ⟨?refusedFetch, ?refusedEntry, ?refusedWord⟩, ?counted, ?sr, ?breakpoint,
    ?none, ?kinds, fun s => ⟨?fetch, ?access⟩⟩
  case refusedFetch => exact step_of_unsettled_fetch hq
  case refusedEntry =>
    intro hfetch hentry h
    obtain ⟨t, ht, hv⟩ := fetch_enters h
    exact step_of_unsettled_fetch_entry hq hfetch hentry ht hv
  case refusedWord => exact fun hfetch hg w => step_of_unsettled_word hq hfetch hg
  case counted =>
    intro i s t hmtc0 hrfe ht hv
    exact counted_of_completed hmtc0 hrfe (completed_of_not_vector ht hv)
  case sr =>
    intro s m p n h
    obtain ⟨hbranches, haccesses⟩ := depends_on_sr h
    refine ⟨hbranches, haccesses, unsettled_fetch h, fun rt hk hm => unsettled_read_sr h hk hm,
      fun hp hm => ?_, fun hm => ?_⟩
    · rw [State.instrUnsettled, stackUnsettled_of_one h hp hm, Bool.or_true]
    · rcases hm with hm | ⟨hp, hm⟩
      · exact entryUnsettled_of_bev h hm
      · exact entryUnsettled_of_stack h hp hm
  case breakpoint =>
    intro s rt m n hu hm
    exact depends_on_breakpoint rt hu hm
  case none => exact fun s => settled_of_no_window
  case kinds => exact fun s i => unsettled_instr_kinds
  case fetch => exact fetchSettled_of_others
  case access =>
    intro h rt rs imm i hi
    have settled := unsettled_access_of_others h (s.effectiveAddress rs imm)
    simp only [List.mem_cons, List.not_mem_nil, or_false] at hi
    rcases hi with rfl | rfl | rfl | rfl | rfl
    · exact settled .word false
    · exact settled .half false
    · exact settled .half false
    · exact settled .word true
    · exact settled .half true

end Sys2Proof.Machine
end
